-- ==== Sys2Proof/Word.lean ====
section
/-! DEFINITION. The word types of the 1-Wire bus master core.
Every width of the core is fixed (00_scope.md R10): a bus bit is a `Bool`, a byte has 8 bits, a ROM code 64,
a temperature and the STATUS register 16. Bits are numbered from the least significant end (R11). -/

namespace Sys2Proof

/-- A byte on the bus or on the command port: 8 bits (R10). -/
abbrev Byte := BitVec 8

/-- A ROM code: 64 bits, bit `i` being the `i`-th bit on the bus during a search (R10, R53). -/
abbrev RomCode := BitVec 64

/-- A raw temperature: 16 bits, two's complement with 4 fraction bits (R10, R262). -/
abbrev Temperature := BitVec 16

end Sys2Proof
end

