-- ==== Sys2Proof/Machine/Operands.lean ====
section
/-! DEFINITION. Operand forms: how bits, bytes and multi-byte values are taken apart and put together.
Every multi-byte value is little-endian: byte 0 of a ROM code and the low byte of a temperature come first,
on the wire and on the command port (20_memory.md R52, R53, R55; 30_encoding.md R81, R92). -/

namespace Sys2Proof.Machine

/-- The eight bits of a byte in slot order, bit 0 first (R52, R140). -/
def byteBits (v : Byte) : List Bool :=
  [v.getLsbD 0, v.getLsbD 1, v.getLsbD 2, v.getLsbD 3, v.getLsbD 4, v.getLsbD 5, v.getLsbD 6, v.getLsbD 7]

/-- One step of the byte deserializer: shift right, then insert the bit at bit 7 (R142, 90_conflicts.md C9). -/
def shiftIn (sh : Byte) (b : Bool) : Byte :=
  (sh >>> 1) ||| (if b then 0x80#8 else 0x00#8)

/-- Byte `j` of a ROM code, `rom[8j+7:8j]` (R53). -/
def romByte (rom : RomCode) (j : Nat) : Byte :=
  rom.extractLsb' (8 * j) 8

/-- The eight bytes of a ROM code in wire order, byte 0 (the family code) first (R53, R220). -/
def romBytes (rom : RomCode) : List Byte :=
  [romByte rom 0, romByte rom 1, romByte rom 2, romByte rom 3, romByte rom 4, romByte rom 5, romByte rom 6,
    romByte rom 7]

/-- The number a byte string stands for, first byte least significant: the sum of `byte_j << 8j` (R92). -/
def littleEndian : List Byte → Nat
  | [] => 0
  | b :: bs => b.toNat + 256 * littleEndian bs

/-- `rom` assembled from its eight bytes, byte 0 first (R92). -/
def romOfBytes (bytes : List Byte) : RomCode :=
  BitVec.ofNat 64 (littleEndian bytes)

/-- `{hi, lo}`: a 16-bit value from its two bytes (R55, R92, R261). -/
def wordOfBytes (hi lo : Byte) : BitVec 16 :=
  hi ++ lo

/-- The low byte of a 16-bit value. -/
def lowByte (w : BitVec 16) : Byte :=
  w.extractLsb' 0 8

/-- The high byte of a 16-bit value. -/
def highByte (w : BitVec 16) : Byte :=
  w.extractLsb' 8 8

/-- `v[i] <- b`: one bit of a value written (R15, R191). -/
def setBit {w : Nat} (v : BitVec w) (i : Nat) (b : Bool) : BitVec w :=
  if b then v ||| (1#w <<< i) else v &&& ~~~(1#w <<< i)

end Sys2Proof.Machine
end

