-- ==== Sys2Proof/Syntax.lean ====
section
/-! DEFINITION. The commands of the core: one constructor per row of the opcode table (30_encoding.md R84, R85),
the reasons for which a command is refused (60_exceptions.md R306), and the frames that carry them. -/

namespace Sys2Proof

/-- The resolution operand of SET_RESOLUTION, its code already decoded (R89). -/
inductive Resolution where
  | r9
  | r10
  | r11
  | r12
  deriving DecidableEq, Repr

/-- The instructions: the 18 command-port commands of R84, then the five 1-Wire command bytes of R85. -/
inductive Instr where
  | init
  | readStatus
  | write1
  | write0
  | readBit
  | reset
  | writeByte (v8 : Byte)
  | readByte
  | crc8 (data : List Byte)
  | startSearch
  | searchStep
  | matchRom (rom : RomCode)
  | requestConversion (rom : RomCode)
  | pollConversionDone (rom : RomCode)
  | readScratchpad (rom : RomCode)
  | readTemperature (rom : RomCode)
  | setResolution (rom : RomCode) (res : Resolution)
  | formatTemperature (t16 : Temperature)
  | wireSearchRom
  | wireMatchRom
  | wireConvertT
  | wireReadScratchpad
  | wireWriteScratchpad
  deriving DecidableEq, Repr

/-- Why a command is refused, in the priority order of R309. -/
inductive RefuseReason where
  | reservedOpcode    -- the opcode is not in the table of R84
  | badFrame          -- the frame is shorter or longer than its format
  | badOperand        -- a `res` operand with bits 7:2 non-zero
  | notInitialised    -- any command but INIT while `S.init` is false
  | searchNotStarted  -- SEARCH_STEP while `S.search_state` is NotStarted
  deriving DecidableEq, Repr

/-- One unit of work in front of the core. The opcode table holds two encodings (30_encoding.md, its opening
words): a command frame as the host sends it (R81), and a 1-Wire command byte as it goes on the wire (R85).
A command frame never decodes to a wire byte's instruction (R93); log entry 3 says what a `wire` item is for. -/
inductive Frame where
  | command (bytes : List Byte)
  | wire (byte : Byte)
  deriving DecidableEq, Repr

end Sys2Proof
end

