-- ==== Sys2Proof/WellFormed.lean ====
section
/-! DEFINITION. Which instructions have an encoding. Every operand is already held in a type of its own width
(`BitVec`, `Resolution`), so one check is left: a CRC8 operand has at most 255 bytes, because its length goes
out in one byte (30_encoding.md R81, 42_crc8.md R162). -/

namespace Sys2Proof

/-- R81, R162: the length `n` of a CRC8 operand is a byte. -/
def wellFormed : Instr → Bool
  | .crc8 data => data.length ≤ 255
  | .init | .readStatus | .write1 | .write0 | .readBit | .reset | .writeByte _ | .readByte
  | .startSearch | .searchStep | .matchRom _ | .requestConversion _ | .pollConversionDone _
  | .readScratchpad _ | .readTemperature _ | .setResolution _ _ | .formatTemperature _
  | .wireSearchRom | .wireMatchRom | .wireConvertT | .wireReadScratchpad | .wireWriteScratchpad => true

end Sys2Proof
end

