-- ==== Sys2Proof/Decode.lean ====
section
/-! DEFINITION. The command-port encoding (30_encoding.md R81, R84, R88 to R95) and the wire encoding of the
1-Wire command bytes (R85): a decoder total on any frame, refusing by name in the order of 60_exceptions.md
R309, and the encoder written from the same tables. -/

namespace Sys2Proof

open Machine (romBytes romOfBytes wordOfBytes lowByte highByte)

/-- The command formats of R81. -/
inductive Format where
  | n
  | b
  | l
  | r
  | rs
  | t
  deriving DecidableEq, Repr

/-- The 18 opcodes of R84. -/
inductive Opcode where
  | init
  | readStatus
  | write1
  | write0
  | readBit
  | reset
  | writeByte
  | readByte
  | crc8
  | startSearch
  | searchStep
  | matchRom
  | requestConversion
  | pollConversionDone
  | readScratchpad
  | readTemperature
  | setResolution
  | formatTemperature
  deriving DecidableEq, Repr

/-- The five 1-Wire command bytes the core emits (R85). -/
inductive WireCmd where
  | searchRom
  | matchRom
  | convertT
  | readScratchpad
  | writeScratchpad
  deriving DecidableEq, Repr

/-- The opcode map of R84: opcode byte, opcode. -/
def opcodeTable : List (Byte × Opcode) :=
  [(0x01#8, .init), (0x02#8, .readStatus),
   (0x10#8, .write1), (0x11#8, .write0), (0x12#8, .readBit), (0x13#8, .reset),
   (0x20#8, .writeByte), (0x21#8, .readByte),
   (0x30#8, .crc8),
   (0x40#8, .startSearch), (0x41#8, .searchStep),
   (0x50#8, .matchRom), (0x51#8, .requestConversion), (0x52#8, .pollConversionDone),
   (0x53#8, .readScratchpad), (0x54#8, .readTemperature), (0x55#8, .setResolution),
   (0x60#8, .formatTemperature)]

/-- The opcode byte of each opcode (R84). -/
def opcodeByte : Opcode → Byte
  | .init => 0x01#8
  | .readStatus => 0x02#8
  | .write1 => 0x10#8
  | .write0 => 0x11#8
  | .readBit => 0x12#8
  | .reset => 0x13#8
  | .writeByte => 0x20#8
  | .readByte => 0x21#8
  | .crc8 => 0x30#8
  | .startSearch => 0x40#8
  | .searchStep => 0x41#8
  | .matchRom => 0x50#8
  | .requestConversion => 0x51#8
  | .pollConversionDone => 0x52#8
  | .readScratchpad => 0x53#8
  | .readTemperature => 0x54#8
  | .setResolution => 0x55#8
  | .formatTemperature => 0x60#8

/-- The format of each opcode (R84). -/
def opcodeFormat : Opcode → Format
  | .init | .readStatus | .write1 | .write0 | .readBit | .reset | .readByte | .startSearch | .searchStep => .n
  | .writeByte => .b
  | .crc8 => .l
  | .matchRom | .requestConversion | .pollConversionDone | .readScratchpad | .readTemperature => .r
  | .setResolution => .rs
  | .formatTemperature => .t

/-- The wire command bytes of R85. -/
def wireByte : WireCmd → Byte
  | .searchRom => 0xF0#8
  | .matchRom => 0x55#8
  | .convertT => 0x44#8
  | .readScratchpad => 0xBE#8
  | .writeScratchpad => 0x4E#8

/-- R85 read the other way: the command a byte on the wire stands for. -/
def wireCommand (v : Byte) : Option WireCmd :=
  if v = 0xF0#8 then some .searchRom
  else if v = 0x55#8 then some .matchRom
  else if v = 0x44#8 then some .convertT
  else if v = 0xBE#8 then some .readScratchpad
  else if v = 0x4E#8 then some .writeScratchpad
  else none

/-- The row of R84 for an opcode byte; none for a reserved opcode (R93). -/
def lookupOpcode (v : Byte) : Option Opcode :=
  (opcodeTable.find? fun row => row.1 == v).map (·.2)

/-- How many operand bytes a format asks for, given the operand bytes sent; format L reads it from its length
byte (R81, R95). -/
def operandLength (f : Format) (operands : List Byte) : Nat :=
  match f with
  | .n => 0
  | .b => 1
  | .l =>
    match operands with
    | [] => 1
    | n :: _ => 1 + n.toNat
  | .r => 8
  | .rs => 9
  | .t => 2

/-- R89: the resolution a `res` byte selects; none if any of bits 7:2 is set. -/
def resolutionOfCode (res : Byte) : Option Resolution :=
  if res = 0#8 then some .r9
  else if res = 1#8 then some .r10
  else if res = 2#8 then some .r11
  else if res = 3#8 then some .r12
  else none

/-- R89: the code of a resolution. -/
def resolutionCode : Resolution → Byte
  | .r9 => 0#8
  | .r10 => 1#8
  | .r11 => 2#8
  | .r12 => 3#8

/-- Operand assembly (R92), for operand bytes whose number already fits the format. -/
def assembleOperands (op : Opcode) (operands : List Byte) : Except RefuseReason Instr :=
  match op with
  | .init => .ok .init
  | .readStatus => .ok .readStatus
  | .write1 => .ok .write1
  | .write0 => .ok .write0
  | .readBit => .ok .readBit
  | .reset => .ok .reset
  | .writeByte => .ok (.writeByte (operands.getD 0 0#8))
  | .readByte => .ok .readByte
  | .crc8 => .ok (.crc8 (operands.drop 1))
  | .startSearch => .ok .startSearch
  | .searchStep => .ok .searchStep
  | .matchRom => .ok (.matchRom (romOfBytes operands))
  | .requestConversion => .ok (.requestConversion (romOfBytes operands))
  | .pollConversionDone => .ok (.pollConversionDone (romOfBytes operands))
  | .readScratchpad => .ok (.readScratchpad (romOfBytes operands))
  | .readTemperature => .ok (.readTemperature (romOfBytes operands))
  | .setResolution =>
    match resolutionOfCode (operands.getD 8 0#8) with
    | some res => .ok (.setResolution (romOfBytes (operands.take 8)) res)
    | none => .error .badOperand
  | .formatTemperature => .ok (.formatTemperature (wordOfBytes (operands.getD 1 0#8) (operands.getD 0 0#8)))

/-- The command-port decoder: opcode, then frame length, then operand (the order of R309).
A frame with no byte at all has no opcode and is shorter than every format: `badFrame` (log entry 8). -/
def decodeCommand : List Byte → Except RefuseReason Instr
  | [] => .error .badFrame
  | v :: operands =>
    match lookupOpcode v with
    | none => .error .reservedOpcode
    | some op =>
      if operands.length = operandLength (opcodeFormat op) operands then assembleOperands op operands
      else .error .badFrame

/-- The wire decoder: the five bytes of R85; any other byte is no command of the core (R94). -/
def decodeWire (v : Byte) : Except RefuseReason Instr :=
  match wireCommand v with
  | some .searchRom => .ok .wireSearchRom
  | some .matchRom => .ok .wireMatchRom
  | some .convertT => .ok .wireConvertT
  | some .readScratchpad => .ok .wireReadScratchpad
  | some .writeScratchpad => .ok .wireWriteScratchpad
  | none => .error .reservedOpcode

/-- The decoder of both encodings. -/
def decode : Frame → Except RefuseReason Instr
  | .command bytes => decodeCommand bytes
  | .wire v => decodeWire v

/-- The encoder: the frame of each instruction (R81, R84, R85). -/
def encode : Instr → Frame
  | .init => .command [opcodeByte .init]
  | .readStatus => .command [opcodeByte .readStatus]
  | .write1 => .command [opcodeByte .write1]
  | .write0 => .command [opcodeByte .write0]
  | .readBit => .command [opcodeByte .readBit]
  | .reset => .command [opcodeByte .reset]
  | .writeByte v8 => .command [opcodeByte .writeByte, v8]
  | .readByte => .command [opcodeByte .readByte]
  | .crc8 data => .command (opcodeByte .crc8 :: BitVec.ofNat 8 data.length :: data)
  | .startSearch => .command [opcodeByte .startSearch]
  | .searchStep => .command [opcodeByte .searchStep]
  | .matchRom rom => .command (opcodeByte .matchRom :: romBytes rom)
  | .requestConversion rom => .command (opcodeByte .requestConversion :: romBytes rom)
  | .pollConversionDone rom => .command (opcodeByte .pollConversionDone :: romBytes rom)
  | .readScratchpad rom => .command (opcodeByte .readScratchpad :: romBytes rom)
  | .readTemperature rom => .command (opcodeByte .readTemperature :: romBytes rom)
  | .setResolution rom res => .command (opcodeByte .setResolution :: (romBytes rom ++ [resolutionCode res]))
  | .formatTemperature t16 => .command [opcodeByte .formatTemperature, lowByte t16, highByte t16]
  | .wireSearchRom => .wire (wireByte .searchRom)
  | .wireMatchRom => .wire (wireByte .matchRom)
  | .wireConvertT => .wire (wireByte .convertT)
  | .wireReadScratchpad => .wire (wireByte .readScratchpad)
  | .wireWriteScratchpad => .wire (wireByte .writeScratchpad)

/-- The low `k` bytes of `w`, least significant first: the opcode table's bit numbering. -/
def tableBytes : Nat → Nat → List Byte
  | 0, _ => []
  | k + 1, w => BitVec.ofNat 8 w :: tableBytes k (w / 256)

/-- Zero operand bytes added up to the length the opcode's format asks for. -/
def padOperands (f : Format) (operands : List Byte) : List Byte :=
  let filled := if operands = [] ∧ f = .l then [0#8] else operands
  filled ++ List.replicate (operandLength f filled - filled.length) 0#8

/-- The frame that an instruction with the table bits `w` stands for: a command frame with its missing operand
bytes zero, or, where the first byte is no opcode of R84 but one of the five bytes of R85, that wire byte.
0x55 is both SET_RESOLUTION and WIRE.MATCH_ROM; the command port has it (log entry 4). -/
def tableFrame (nbits w : Nat) : Frame :=
  match tableBytes ((nbits + 7) / 8) w with
  | [] => .command []
  | v :: operands =>
    match lookupOpcode v with
    | some op => .command (v :: padOperands (opcodeFormat op) operands)
    | none =>
      match wireCommand v, operands with
      | some _, [] => .wire v
      | _, _ => .command (v :: operands)

/-- The instruction the decoder reads from the table bits `w`; none where it refuses. -/
def decodeTableWord (nbits w : Nat) : Option Instr :=
  (decode (tableFrame nbits w)).toOption

end Sys2Proof
end

