-- ==== Sys2Proof/Config.lean ====
section
/-! DEFINITION. What an implementation fixes, and the free values.
`Params` is the record of the parameters of 00_scope.md R9: every operation of the core takes it as an argument,
and the step relation takes it with the state it steps (R9, R29). The values R9 shows for it are `Machine.params`
(Machine/Params.lean). `Timing` is the timing implementation that is injected at construction (R29). The values
that the spec leaves OPEN or only bounds, and the value of a sample that nothing determines, are opaque constants:
no proof can learn their value. -/

namespace Sys2Proof

/-- `SEARCH_ZERO_RULE` (R9, R190): when a search pass records its last-zero candidate. -/
inductive ZeroRule where
  | anyZero   -- at every discrepancy resolved to 0 (the default)
  | newOnly   -- only where the position lies above the last discrepancy (the source's literal text)
  deriving DecidableEq, Repr

/-- `ROM_CRC_ORDER` (R9, R164): the byte order in which a ROM code is fed to the CRC. -/
inductive RomCrcOrder where
  | wire      -- byte 0 first (the default)
  | reversed  -- byte 6 first (the reference code's index reversal)
  deriving DecidableEq, Repr

/-- `WS_ORDER` (R9, R246, R266): the order of the three bytes sent after Write Scratchpad. -/
inductive WsOrder where
  | thTlCfg   -- [TH, TL, CFG] (the default)
  | cfgTlTh   -- [CFG, TL, TH]
  deriving DecidableEq, Repr

/-- The timing implementation, `timing_impl`, injected at construction (R29, 60_exceptions.md R320): what the core's
rules can tell of it, the largest deviation of any of its waits from the constant asked for, in nanoseconds. -/
structure Timing where
  maxDeviationNs : Nat
  deriving DecidableEq, Repr

/-- The parameters of R9. No command changes them (R29). -/
structure Params where
  /-- The ten slot delay constants `T_A` .. `T_J`, in microseconds (R110). -/
  tA : Nat
  tB : Nat
  tC : Nat
  tD : Nat
  tE : Nat
  tF : Nat
  tG : Nat
  tH : Nat
  tI : Nat
  tJ : Nat
  /-- `JITTER_MAX`, the largest allowed deviation of a wait, in nanoseconds: under 1 microsecond (R120). -/
  jitterMaxNs : Fin 1000
  /-- `CRC_POLY`, the reflected CRC polynomial (R160). -/
  crcPoly : Byte
  /-- `CRC_INIT`, the CRC register before the first byte (R161). -/
  crcInit : Byte
  /-- `SEARCH_ZERO_RULE` (R190). -/
  zeroRule : ZeroRule
  /-- `ROM_CRC_ORDER` (R164). -/
  romCrcOrder : RomCrcOrder
  /-- `CFG_BYTE(res)` for the resolutions 9, 10, 11 and 12 bits (R264). -/
  cfgR9 : Byte
  cfgR10 : Byte
  cfgR11 : Byte
  cfgR12 : Byte
  /-- `WS_ORDER` (R246). -/
  wsOrder : WsOrder
  /-- `MAX_DEVICES`, the host's cap on the devices found in one discovery (60_exceptions.md R304). -/
  maxDevices : Nat
  /-- `ROM_BITS`, the bits in a ROM code: the positions of a search pass (R186). -/
  romBits : Nat
  /-- `SCRATCHPAD_BYTES`, the bytes in a scratchpad frame: the bytes of a read (R230). -/
  scratchpadBytes : Nat
  deriving DecidableEq, Repr

/-- FREE VALUE (20_memory.md R59, 93_implementation_defined.md U2): the bit that sample number `n` returns when
the environment is the free-draw one and no draw has been fixed in advance. It has no body a proof can see, so
a statement about it holds for either bit (log entry 1). -/
opaque Config.freeSample : Nat → Bool

/-- The value of `JITTER_MAX` (R9, R120) in nanoseconds: the spec gives only its bound, under 1 microsecond, which
its type says (log entry 11). -/
opaque Config.jitterMaxNs : Fin 1000

/-- The value of `MAX_DEVICES` (R9, R304): OPEN, held by the host, not by the core (log entry 12). -/
opaque Config.maxDevices : Nat

/-- `CORE_BASE` (R56): OPEN, chosen by a platform that memory-maps the core; no rule of the core reads it
(log entry 12). -/
opaque Config.coreBase : Nat

end Sys2Proof
end

