-- ==== Sys2Proof/Machine/Params.lean ====
section
/-! DEFINITION. The values of the parameters that 00_scope.md R9 shows, the timing implementation that keeps every
wait exactly, and the parameter functions. -/

namespace Sys2Proof.Machine

/-- The parameter values of R9: the source's delay constants (R110), and the spec's decisions D5 (`CRC_INIT`),
D6 (`ROM_CRC_ORDER`), D9 (`SEARCH_ZERO_RULE`), D15 (`CFG_BYTE`) and D16 (`WS_ORDER`); the two values it leaves
open, `JITTER_MAX` and `MAX_DEVICES`, are opaque constants. -/
def params : Params where
  tA := 6
  tB := 64
  tC := 60
  tD := 10
  tE := 9
  tF := 55
  tG := 0
  tH := 480
  tI := 70
  tJ := 410
  jitterMaxNs := Config.jitterMaxNs
  crcPoly := 0x8C#8
  crcInit := 0x00#8
  zeroRule := .anyZero
  romCrcOrder := .wire
  cfgR9 := 0x1F#8
  cfgR10 := 0x3F#8
  cfgR11 := 0x5F#8
  cfgR12 := 0x7F#8
  wsOrder := .thTlCfg
  maxDevices := Config.maxDevices
  romBits := 64
  scratchpadBytes := 9

/-- The timing implementation whose waits last exactly the time asked for (log entry 11). -/
def exactTiming : Timing where
  maxDeviationNs := 0

/-- Whether the bound timing implementation keeps the budget of R120; before INIT binds one there is none (R29). -/
def keepsBudget (p : Params) (timing : Option Timing) : Bool :=
  match timing with
  | some t => decide (t.maxDeviationNs ≤ p.jitterMaxNs.val)
  | none => false

/-- `CFG_BYTE(res)` (45_scratchpad_codec.md R264). -/
def cfgByte (p : Params) : Resolution → Byte
  | .r9 => p.cfgR9
  | .r10 => p.cfgR10
  | .r11 => p.cfgR11
  | .r12 => p.cfgR12

end Sys2Proof.Machine
end

