-- ==== Sys2Proof/Machine/State.lean ====
section
/-! DEFINITION. The state of the machine as plain data (10_state.md R22 to R28), with what stands on either side
of the core: the host's command sequence and what it has observed (20_memory.md R70, 60_exceptions.md R306,
R322), and the bus environment (20_memory.md R59 to R66). -/

namespace Sys2Proof.Machine

/-- `S.search_state`, the ROM search state machine (R23). -/
inductive SearchState where
  | notStarted
  | running
  | done
  | noDevicePresent
  | checksumMismatch
  deriving DecidableEq, Repr

/-- The error causes of 60_exceptions.md R300. The core never writes `searchOverflow` (R27, R304). -/
inductive ErrCause where
  | none
  | noDevicePresent
  | noDeviceResponse
  | checksumMismatch
  | searchOverflow
  deriving DecidableEq, Repr

/-- `S.bus_drive`, the master's drive state of the line (R28). -/
inductive Drive where
  | released
  | low
  deriving DecidableEq, Repr

/-- One event of a bus trace (R14, R70). A wait is in microseconds; a sample carries the bit it returned. -/
inductive BusEvent where
  | driveLow
  | release
  | wait (us : Nat)
  | sample (v : Bool)
  deriving DecidableEq, Repr

/-- A 9-byte scratchpad frame by its fields (20_memory.md R54, 45_scratchpad_codec.md R260). -/
structure Scratchpad where
  tlsb : Byte
  tmsb : Byte
  th : Byte
  tl : Byte
  cfg : Byte
  rsv0 : Byte
  rsv1 : Byte
  rsv2 : Byte
  crc : Byte
  deriving DecidableEq, Repr

/-- The outcome of a search pass (R30, 30_encoding.md R88). -/
inductive SearchOutcome where
  | found (code : RomCode)
  | done
  | noDevicePresent
  | checksumMismatch
  deriving DecidableEq, Repr

/-- The `Ok`/`ChecksumError` tag of a checked read; a failed read carries nothing (R30, R83, R90). -/
inductive Checked (α : Type) where
  | ok (value : α)
  | checksumError
  deriving DecidableEq, Repr

/-- The result of a command, one constructor per result kind of 30_encoding.md R82. -/
inductive Result where
  | unit
  | bit (b : Bool)
  | byte (v : Byte)
  | outcome (o : SearchOutcome)
  | pad (r : Checked Scratchpad)
  | temp (r : Checked Temperature)
  | bool (b : Bool)
  | status (w : BitVec 16)
  | text (ascii : List Byte)
  deriving DecidableEq, Repr

/-- One entry of a run's observation: the command, its result and its bus trace (R70). -/
structure Observation where
  command : Instr
  result : Result
  trace : List BusEvent
  deriving DecidableEq, Repr

/-- The sub-step of a search position in a device: true bit, complement bit, direction bit (R61). -/
inductive SearchSub where
  | trueBit
  | compBit
  | dirBit
  deriving DecidableEq, Repr

/-- The protocol phase of a device of the reference environment (R61). -/
inductive Phase where
  | idle
  | romCmd (k : Nat) (v : Byte)
  | search (i : Nat) (sub : SearchSub)
  | matching (i : Nat) (ok : Bool)
  | funcCmd (k : Nat) (v : Byte)
  | converting (n : Nat)
  | sendPad (i : Nat)
  | recvPad (i : Nat) (v : BitVec 24)
  | deselected
  deriving DecidableEq, Repr

/-- A device of the reference environment (R61). -/
structure Device where
  rom : RomCode
  pad : Scratchpad
  tempNext : Temperature
  convPolls : Nat
  phase : Phase
  deriving DecidableEq, Repr

/-- The bus environment: what answers a `Sample()`.
`draws ds` is the environment of every claim about the core (R59): the samples are `ds` in order and, after
them, free values. `reference devices` is the deterministic oracle of R60 to R66. -/
inductive Env where
  | draws (fixed : List Bool)
  | reference (devices : List Device)
  deriving DecidableEq, Repr

/-- The machine. The first seven fields are the record `S` of R22 to R28, and nothing else of it exists between
commands (R20). The next three are the configuration of R29, which is no part of `S`: the step relation takes it as
an argument, and the argument of `step` and `exec` is this record; INIT binds the timing implementation and no
command changes the rest (log entry 6). The others are what R70, R306 and R322 give a run (its commands, its
observation, its refusal marks) and the environment of R59; log entries 1, 2, 3 and 5 say how they are held. -/
structure State where
  /-- `S.init` (R22). -/
  init : Bool
  /-- `S.search_state` (R23). -/
  searchState : SearchState
  /-- `S.last_discrepancy`, a signed integer from −1 to 63 (R24). -/
  lastDiscrepancy : Int
  /-- `S.rom_acc`, the search accumulator (R25). -/
  romAcc : RomCode
  /-- `S.presence` (R26). -/
  presence : Bool
  /-- `S.err` (R27). -/
  err : ErrCause
  /-- `S.bus_drive` (R28). -/
  busDrive : Drive
  /-- The parameters of 00_scope.md R9 (R29). -/
  config : Params
  /-- The timing implementation injected at construction (R29). -/
  injected : Timing
  /-- The timing implementation that INIT has bound (R29); none before INIT. -/
  timing : Option Timing
  /-- The frames the host sends, in issue order, not yet taken (R67, R322). -/
  port : List Frame
  /-- The bus events of the command being performed, in time order (R70); empty between commands. -/
  trace : List BusEvent
  /-- The run's observation so far, in issue order (R70). -/
  observations : List Observation
  /-- The refusal marks, in issue order, kept for the rest of the run (R306). -/
  marks : List RefuseReason
  /-- The bus environment (R18, R34, R59). -/
  env : Env
  /-- How many samples have been taken: the model's own counter, which picks the next free value (R59). -/
  sampleCount : Nat
  deriving DecidableEq, Repr

/-- Faults: none. "The core has no trap mechanism. Every failure is a result value" (60_exceptions.md, opening
words, R310), and the one stuck state of the spec, a slot stopped part-way, cannot be reached because no event
of the model stops a slot (70_reset_and_hazards.md R352, 93_implementation_defined.md U9). -/
inductive Fault where
  deriving DecidableEq, Repr

/-- Stops of the model. The spec's own refusals are no stops: a refused command leaves its mark in the state and
the run goes on (R306, log entry 2). -/
inductive Refusal where
  /-- Raised by an arm of `exec` whose instruction has no meaning yet; no arm does. Safe: it only stops. -/
  | notModelled (mnemonic : String)
  deriving DecidableEq, Repr

/-- Power-on (70_reset_and_hazards.md R340, R341): every field of `S` at the value of R340's table, no command
issued, nothing observed, no refusal mark. The parameters have the values R9 shows, and the injected timing
implementation, not yet bound, is exact (log entries 6 and 11). The environment is the free-draw one of R59 with no
sample taken (log entry 1: the model's own fields). -/
def State.reset : State where
  init := false
  searchState := .notStarted
  lastDiscrepancy := -1
  romAcc := 0#64
  presence := false
  err := .none
  busDrive := .released
  config := params
  injected := exactTiming
  timing := none
  port := []
  trace := []
  observations := []
  marks := []
  env := .draws []
  sampleCount := 0

end Sys2Proof.Machine
end

