-- ==== Sys2Proof/Machine/Crc.lean ====
section
/-! DEFINITION. The CRC-8/Maxim engine's functions (42_crc8.md R160, R161, R163 to R165): pure, over bytes. -/

namespace Sys2Proof.Machine

/-- One bit into the CRC register (the body of R160's loop). -/
def crc8Bit (p : Params) (crc : Byte) (d : Bool) : Byte :=
  let newBit := Bool.xor d (crc.getLsbD 0)
  let shifted := crc >>> 1
  if newBit then shifted ^^^ p.crcPoly else shifted

/-- `crc8_update(crc, d)`: the eight bits of a byte, least significant first (R160). -/
def crc8Update (p : Params) (crc : Byte) (d : Byte) : Byte :=
  (byteBits d).foldl (crc8Bit p) crc

/-- `crc8(d[0..n−1])` (R161). -/
def crc8 (p : Params) (bytes : List Byte) : Byte :=
  bytes.foldl (crc8Update p) p.crcInit

/-- `crc_ok` of a byte string given as its leading bytes and its last byte (R163): a comparison, not a residue
test (R166). -/
def crcOk (p : Params) (leading : List Byte) (last : Byte) : Bool :=
  crc8 p leading == last

/-- `rom_ok(rom)` (R164), under either byte order. -/
def romOk (p : Params) (rom : RomCode) : Bool :=
  let leading := (romBytes rom).take 7
  match p.romCrcOrder with
  | .wire => crcOk p leading (romByte rom 7)
  | .reversed => crcOk p leading.reverse (romByte rom 7)

/-- Bytes 0 to 7 of a scratchpad, in wire order (R54). -/
def padLeading (f : Scratchpad) : List Byte :=
  [f.tlsb, f.tmsb, f.th, f.tl, f.cfg, f.rsv0, f.rsv1, f.rsv2]

/-- The nine bytes of a scratchpad, in wire order (R54). -/
def padBytes (f : Scratchpad) : List Byte :=
  padLeading f ++ [f.crc]

/-- `pad_ok(p[0..8])` (R165). -/
def padOk (p : Params) (f : Scratchpad) : Bool :=
  crcOk p (padLeading f) f.crc

end Sys2Proof.Machine
end

