-- ==== Sys2Proof/Machine/Environment.lean ====
section
/-! DEFINITION. The bus environment: the free-draw oracle of 20_memory.md R59, and the reference devices of
R60 to R65, which answer by slots. -/

namespace Sys2Proof.Machine

/-- What a slot shows the devices: a reset pulse, a written bit, or a read slot (30_encoding.md R87). -/
inductive Slot where
  | reset
  | write (b : Bool)
  | read
  deriving DecidableEq, Repr

/-- The CRC byte of a ROM code is the CRC of the seven bytes before it (R53). -/
def romWf (p : Params) (rom : RomCode) : Bool :=
  crcOk p ((romBytes rom).take 7) (romByte rom 7)

/-- The ROM code of a family code and a serial: its CRC byte makes it valid (R53). -/
def validRom (p : Params) (family : Byte) (serial : BitVec 48) : RomCode :=
  crc8 p ((romBytes (0#8 ++ serial ++ family)).take 7) ++ serial ++ family

/-- A device at power-up: a ROM code with a valid CRC, and deselected (R61). -/
def powerUpDevice (p : Params) (family : Byte) (serial : BitVec 48) (pad : Scratchpad) (tempNext : Temperature)
    (convPolls : Nat) : Device where
  rom := validRom p family serial
  pad := pad
  tempNext := tempNext
  convPolls := convPolls
  phase := .deselected

/-- Bit `i mod 8` of byte `i div 8` of the device's scratchpad (R65, SendPad). -/
def devicePadBit (d : Device) (i : Nat) : Bool :=
  ((padBytes d.pad).getD (i / 8) 0#8).getLsbD (i % 8)

/-- Whether the device pulls the line low in the next read slot (R62, R63, R65). In the phases that only take
written bits the spec names no pull, and there is none (log entry 9). -/
def devicePullsLow (d : Device) : Bool :=
  match d.phase with
  | .search i .trueBit => !d.rom.getLsbD i
  | .search i .compBit => d.rom.getLsbD i
  | .converting n => decide (0 < n)
  | .sendPad i => !devicePadBit d i
  | .search _ .dirBit | .idle | .romCmd _ _ | .matching _ _ | .funcCmd _ _ | .recvPad _ _ | .deselected => false

/-- The scratchpad with its CRC byte renewed (R65). -/
def refreshCrc (p : Params) (f : Scratchpad) : Scratchpad :=
  { f with crc := crc8 p (padLeading f) }

/-- The end of a conversion: the next temperature enters the scratchpad (R65, Converting). -/
def finishConversion (p : Params) (d : Device) : Device :=
  { d with
    pad := refreshCrc p { d.pad with tlsb := lowByte d.tempNext, tmsb := highByte d.tempNext }
    phase := .idle }

/-- The end of a Write Scratchpad: the three bytes, in order, are bytes 2, 3 and 4 (R65, RecvPad). -/
def storePad (p : Params) (d : Device) (v : BitVec 24) : Device :=
  { d with
    pad := refreshCrc p
      { d.pad with th := v.extractLsb' 0 8, tl := v.extractLsb' 8 8, cfg := v.extractLsb' 16 8 }
    phase := .idle }

/-- The phase after a whole ROM command byte (R62). -/
def romCommandPhase (v : Byte) : Phase :=
  if v = wireByte .searchRom then .search 0 .trueBit
  else if v = wireByte .matchRom then .matching 0 true
  else .deselected

/-- The phase after a whole function command byte (R64). -/
def functionCommandPhase (d : Device) (v : Byte) : Phase :=
  if v = wireByte .convertT then .converting d.convPolls
  else if v = wireByte .readScratchpad then .sendPad 0
  else if v = wireByte .writeScratchpad then .recvPad 0 0#24
  else .deselected

/-- A device takes a written bit (R62 to R65). A phase that takes none stays (log entry 9). -/
def deviceTakesWrite (p : Params) (w : Bool) (d : Device) : Device :=
  match d.phase with
  | .romCmd k v =>
    let v' := setBit v k w
    { d with phase := if k = 7 then romCommandPhase v' else .romCmd (k + 1) v' }
  | .search i .dirBit =>
    { d with
      phase :=
        if w ≠ d.rom.getLsbD i then .deselected else if i = 63 then .idle else .search (i + 1) .trueBit }
  | .matching i ok =>
    let ok' := ok && (w == d.rom.getLsbD i)
    { d with
      phase := if i = 63 then (if ok' then .funcCmd 0 0#8 else .deselected) else .matching (i + 1) ok' }
  | .funcCmd k v =>
    let v' := setBit v k w
    { d with phase := if k = 7 then functionCommandPhase d v' else .funcCmd (k + 1) v' }
  | .recvPad i v =>
    let v' := setBit v i w
    if i = 23 then storePad p d v' else { d with phase := .recvPad (i + 1) v' }
  | .search _ .trueBit | .search _ .compBit | .idle | .converting _ | .sendPad _ | .deselected => d

/-- A device answers a read slot (R63, R65). A phase that answers none stays (log entry 9). -/
def deviceTakesRead (p : Params) (d : Device) : Device :=
  match d.phase with
  | .search i .trueBit => { d with phase := .search i .compBit }
  | .search i .compBit => { d with phase := .search i .dirBit }
  | .converting 0 => finishConversion p d
  | .converting (n + 1) => { d with phase := .converting n }
  | .sendPad i => { d with phase := if i = 71 then .idle else .sendPad (i + 1) }
  | .search _ .dirBit | .idle | .romCmd _ _ | .matching _ _ | .funcCmd _ _ | .recvPad _ _ | .deselected => d

/-- What one slot does to a device (R62 to R65). -/
def deviceSlot (p : Params) (slot : Slot) (d : Device) : Device :=
  match slot with
  | .reset => { d with phase := .romCmd 0 0#8 }
  | .write w => deviceTakesWrite p w d
  | .read => deviceTakesRead p d

/-- The level of the line with the reference devices, 1 (true) for high: wired-AND, low if the master drives it or a
device pulls it, where in a presence window every device pulls (R60, R62). -/
def wiredAnd (devices : List Device) (drive : Drive) (slot : Slot) : Bool :=
  match drive, slot with
  | .low, _ => false
  | .released, .reset => devices.isEmpty
  | .released, .read => !devices.any devicePullsLow
  | .released, .write _ => true

/-- The bit the environment gives a sample. In the free-draw environment it is the next fixed draw, or else free
value number `n` (R59). With the reference devices it is the level of the line, or, under a timing implementation
that misses the budget of R120 (`onTime` false), free value number `n` (93_implementation_defined.md U1). -/
def lineLevel (onTime : Bool) (env : Env) (drive : Drive) (slot : Slot) (n : Nat) : Bool :=
  match env with
  | .draws (b :: _) => b
  | .draws [] => Config.freeSample n
  | .reference devices => if onTime then wiredAnd devices drive slot else Config.freeSample n

/-- The environment after a sample: a fixed draw is used up (R59). -/
def envAfterSample : Env → Env
  | .draws ds => .draws ds.tail
  | .reference devices => .reference devices

/-- The environment after a slot: each reference device moves on (R62 to R65). -/
def envAfterSlot (p : Params) (slot : Slot) : Env → Env
  | .draws ds => .draws ds
  | .reference devices => .reference (devices.map (deviceSlot p slot))

/-- Every reference device has a ROM code with a valid CRC (R61). -/
def envWf (p : Params) : Env → Bool
  | .draws _ => true
  | .reference devices => devices.all fun d => romWf p d.rom

end Sys2Proof.Machine
end

