-- ==== Sys2Proof/Machine/Ops.lean ====
section
/-! DEFINITION. The shared operations: the four bus primitives (00_scope.md R14), the way a command begins and
ends (R70), and a refusal (60_exceptions.md R306). The core has no trap and no return from one (R310, R311): an
error is a result value, and a refusal is the only other way a command can turn out. -/

namespace Sys2Proof.Machine

/-- The three outcomes of a step, over this machine's types. -/
abbrev Outcome := Host.Outcome State Fault Refusal

/-- `DriveLow()` (R14, R111). -/
def driveLow (s : State) : State :=
  { s with busDrive := .low, trace := s.trace ++ [.driveLow] }

/-- `Release()` (R14, R111). -/
def release (s : State) : State :=
  { s with busDrive := .released, trace := s.trace ++ [.release] }

/-- `Wait(t)` (R14). -/
def wait (t : Nat) (s : State) : State :=
  { s with trace := s.trace ++ [.wait t] }

/-- The bit a `Sample()` returns now, inside a slot of the given kind (R14, R59, R120). -/
def sampleValue (p : Params) (slot : Slot) (s : State) : Bool :=
  lineLevel (keepsBudget p s.timing) s.env s.busDrive slot s.sampleCount

/-- `Sample()`: the state after it (R14, R70). -/
def sample (p : Params) (slot : Slot) (s : State) : State :=
  { s with
    env := envAfterSample s.env
    sampleCount := s.sampleCount + 1
    trace := s.trace ++ [.sample (sampleValue p slot s)] }

/-- The devices see a whole slot (R61 to R65). It is no bus event and no field of `S` changes. The spec does not say how a
slot whose waits miss the budget of R120 moves a reference device (70_reset_and_hazards.md R356, 91_not_in_source.md N13,
93_implementation_defined.md U1): here each moves on as after a good slot (DESIGN CHOICE, log entry 19). -/
def devicesSee (p : Params) (slot : Slot) (s : State) : State :=
  { s with env := envAfterSlot p slot s.env }

/-- A command begins with an empty trace (R70). -/
def beginCommand (s : State) : State :=
  { s with trace := [] }

/-- A command ends: its result and its trace join the observation (R70). -/
def finishCommand (i : Instr) (r : Result) (s : State) : State :=
  { s with observations := s.observations ++ [⟨i, r, s.trace⟩], trace := [] }

/-- A refusal (R306): no bus event, no field of `S` written, no result; the mark is recorded and kept. -/
def refuse (why : RefuseReason) (s : State) : State :=
  { s with marks := s.marks ++ [why] }

/-- The frame every command but INIT shares: refused while `S.init` is false (R22, R306), and otherwise one
atomic transition that ends in its result (R16). -/
def command (i : Instr) (body : State → Result × State) (s : State) : Outcome :=
  if s.init then .next (finishCommand i (body (beginCommand s)).1 (body (beginCommand s)).2)
  else .next (refuse .notInitialised s)

end Sys2Proof.Machine
end

