-- ==== Sys2Proof/Machine/Slots.lean ====
section
/-! DEFINITION. The bit-slot timer (40_bit_slots.md): the four slots, each a fixed sequence of bus primitives
(R112 to R116), and the commands WRITE1, WRITE0, READBIT and RESET (R122 to R125). -/

namespace Sys2Proof.Machine

/-- `SLOT_W1` (R113). -/
def slotWrite1 (p : Params) (s : State) : State :=
  devicesSee p (.write true) (wait p.tB (release (wait p.tA (driveLow s))))

/-- `SLOT_W0` (R114). -/
def slotWrite0 (p : Params) (s : State) : State :=
  devicesSee p (.write false) (wait p.tD (release (wait p.tC (driveLow s))))

/-- `SLOT_R` up to its sample (R115). -/
def readToSample (p : Params) (s : State) : State :=
  wait p.tE (release (wait p.tA (driveLow s)))

/-- `SLOT_R` (R115): the bit read, and the state after the slot. -/
def slotRead (p : Params) (s : State) : Bool × State :=
  (sampleValue p .read (readToSample p s), devicesSee p .read (wait p.tF (sample p .read (readToSample p s))))

/-- `SLOT_RST` up to its sample (R116). -/
def resetToSample (p : Params) (s : State) : State :=
  wait p.tI (release (wait p.tH (driveLow (wait p.tG s))))

/-- `SLOT_RST` (R116): the presence bit, true if the sample read 0, and the state after the slot, where
`S.presence` holds that bit. -/
def slotReset (p : Params) (s : State) : Bool × State :=
  let present := !sampleValue p .reset (resetToSample p s)
  (present,
    { devicesSee p .reset (wait p.tJ (sample p .reset (resetToSample p s))) with presence := present })

/-- `write_bit(b)` (R126). -/
def writeBit (p : Params) (b : Bool) (s : State) : State :=
  if b then slotWrite1 p s else slotWrite0 p s

/-- WRITE1 (R122). -/
def execWrite1 (s : State) : Outcome :=
  command .write1 (fun s => (.unit, slotWrite1 s.config s)) s

/-- WRITE0 (R123). -/
def execWrite0 (s : State) : Outcome :=
  command .write0 (fun s => (.unit, slotWrite0 s.config s)) s

/-- READBIT (R124). -/
def execReadBit (s : State) : Outcome :=
  command .readBit (fun s => (.bit (slotRead s.config s).1, (slotRead s.config s).2)) s

/-- RESET (R125): the bus reset; the core's own state other than `S.presence` stays (R342). -/
def execReset (s : State) : Outcome :=
  command .reset (fun s => (.bool (slotReset s.config s).1, (slotReset s.config s).2)) s

end Sys2Proof.Machine
end

