-- ==== Sys2Proof/Machine/Bytes.lean ====
section
/-! DEFINITION. The byte serializer and deserializer (41_byte_transport.md), least significant bit first, and
the commands WRITEBYTE and READBYTE (R141, R143). -/

namespace Sys2Proof.Machine

/-- One write slot per bit, in list order. -/
def writeBits (p : Params) : List Bool → State → State
  | [], s => s
  | b :: bs, s => writeBits p bs (writeBit p b s)

/-- `write_byte(v)` (R140): eight slots, bit 0 first. -/
def writeByte (p : Params) (v : Byte) (s : State) : State :=
  writeBits p (byteBits v) s

/-- Whole bytes, in list order (R144). -/
def writeBytes (p : Params) : List Byte → State → State
  | [], s => s
  | v :: vs, s => writeBytes p vs (writeByte p v s)

/-- `n` read slots shifted into the register `sh` (the loop of R142). -/
def readBits (p : Params) : Nat → Byte → State → Byte × State
  | 0, sh, s => (sh, s)
  | n + 1, sh, s =>
    let r := slotRead p s
    readBits p n (shiftIn sh r.1) r.2

/-- `read_byte()` (R142): the first bit read is bit 0 of the result. -/
def readByte (p : Params) (s : State) : Byte × State :=
  readBits p 8 0x00#8 s

/-- `n` bytes read, in order. -/
def readBytes (p : Params) : Nat → State → List Byte × State
  | 0, s => ([], s)
  | n + 1, s =>
    let r := readByte p s
    let rs := readBytes p n r.2
    (r.1 :: rs.1, rs.2)

/-- A 1-Wire command byte goes out as one byte, LSB first (30_encoding.md R85). -/
def sendWire (p : Params) (c : WireCmd) (s : State) : State :=
  writeByte p (wireByte c) s

/-- WRITEBYTE (R141). -/
def execWriteByte (v8 : Byte) (s : State) : Outcome :=
  command (.writeByte v8) (fun s => (.unit, writeByte s.config v8 s)) s

/-- READBYTE (R143). -/
def execReadByte (s : State) : Outcome :=
  command .readByte (fun s => (.byte (readByte s.config s).1, (readByte s.config s).2)) s

end Sys2Proof.Machine
end

