-- ==== Sys2Proof/Machine/Flags.lean ====
section
/-! DEFINITION. Value codes and the STATUS register. The core has no condition-code register (10_state.md R30);
its persistent flags are `S.presence`, `S.err` and `S.search_state`, and STATUS mirrors them (R31). -/

namespace Sys2Proof.Machine

/-- The search-state codes of STATUS.SSTATE (30_encoding.md R91). -/
def searchStateCode : SearchState → BitVec 3
  | .notStarted => 0#3
  | .running => 1#3
  | .done => 2#3
  | .noDevicePresent => 3#3
  | .checksumMismatch => 4#3

/-- The error codes of STATUS.ERR (60_exceptions.md R300). -/
def errCode : ErrCause → BitVec 3
  | .none => 0#3
  | .noDevicePresent => 1#3
  | .noDeviceResponse => 2#3
  | .checksumMismatch => 3#3
  | .searchOverflow => 4#3

/-- The SearchOutcome codes (30_encoding.md R88). -/
def outcomeCode : SearchOutcome → Byte
  | .found _ => 0x00#8
  | .done => 0x01#8
  | .noDevicePresent => 0x02#8
  | .checksumMismatch => 0x03#8

/-- The Bool encoding (30_encoding.md R90). -/
def boolCode (b : Bool) : Byte :=
  if b then 0x01#8 else 0x00#8

/-- `STATUS` (R31): LD 15:8, INIT 7, ERR 6:4, PRES 3, SSTATE 2:0. -/
def statusWord (s : State) : BitVec 16 :=
  BitVec.ofInt 8 s.lastDiscrepancy ++ BitVec.ofBool s.init ++ errCode s.err ++ BitVec.ofBool s.presence
    ++ searchStateCode s.searchState

end Sys2Proof.Machine
end

