-- ==== Sys2Proof/Machine/Codec.lean ====
section
/-! DEFINITION. The scratchpad frame codec and temperature text (45_scratchpad_codec.md R260 to R267), and the
result frames of the command port (30_encoding.md R82): pure functions. -/

namespace Sys2Proof.Machine

/-- `decode_frame` (R260): the nine received bytes by field, in received order. -/
def decodeFrame (bytes : List Byte) : Scratchpad where
  tlsb := bytes.getD 0 0#8
  tmsb := bytes.getD 1 0#8
  th := bytes.getD 2 0#8
  tl := bytes.getD 3 0#8
  cfg := bytes.getD 4 0#8
  rsv0 := bytes.getD 5 0#8
  rsv1 := bytes.getD 6 0#8
  rsv2 := bytes.getD 7 0#8
  crc := bytes.getD 8 0#8

/-- `decode_temperature` (R261): `{p[1], p[0]}`, no bit masked (R263). -/
def decodeTemperature (f : Scratchpad) : Temperature :=
  wordOfBytes f.tmsb f.tlsb

/-- The value of a raw temperature in sixteenths of a degree Celsius: `sint16(raw)` (R262). -/
def sixteenths (raw : Temperature) : Int :=
  raw.toInt

/-- The fraction bits that are significant at a resolution (R263). A statement about the device; the core
masks nothing, so no command reads this table. -/
def significantFraction : Resolution → BitVec 4
  | .r12 => 0b1111#4
  | .r11 => 0b1110#4
  | .r10 => 0b1100#4
  | .r9 => 0b1000#4

/-- `decode_resolution` (R265): an exact match on all eight bits, else none (`Unknown`). No command returns it. Where a
configuration gives two resolutions the same byte, R265 does not say which of them is returned: here it is the first
that matches, in the order 9, 10, 11, 12 bits (DESIGN CHOICE, log entry 20). -/
def decodeResolution (p : Params) (cfg : Byte) : Option Resolution :=
  if cfg = cfgByte p .r9 then some .r9
  else if cfg = cfgByte p .r10 then some .r10
  else if cfg = cfgByte p .r11 then some .r11
  else if cfg = cfgByte p .r12 then some .r12
  else none

/-- `write_frame` (R266): the three user-writable bytes in the order `WS_ORDER`. -/
def writeFrame (p : Params) (f : Scratchpad) : List Byte :=
  match p.wsOrder with
  | .thTlCfg => [f.th, f.tl, f.cfg]
  | .cfgTlTh => [f.cfg, f.tl, f.th]

/-- The ASCII code of a decimal digit (R269). -/
def digitChar (d : Nat) : Byte :=
  BitVec.ofNat 8 (0x30 + d)

/-- The decimal digits of `n`, most significant first, put in front of `acc`; the first argument bounds how many
digits are made. -/
def decimalDigits : Nat → Nat → List Byte → List Byte
  | 0, _, acc => acc
  | fuel + 1, n, acc =>
    if n < 10 then digitChar n :: acc
    else decimalDigits fuel (n / 10) (digitChar (n % 10) :: acc)

/-- `decimal(w)` of R267: no leading zeros, "0" for 0. No whole part has more than four digits (R262). -/
def decimal (w : Nat) : List Byte :=
  decimalDigits 10 w []

/-- The 4-digit decimal of `n` with leading zeros (R267). -/
def fourDigits (n : Nat) : List Byte :=
  [digitChar (n / 1000 % 10), digitChar (n / 100 % 10), digitChar (n / 10 % 10), digitChar (n % 10)]

/-- A digit string without its trailing '0' characters (R267). -/
def trimZeros (digits : List Byte) : List Byte :=
  (digits.reverse.dropWhile (· == 0x30#8)).reverse

/-- The base-10000 numerator of the four fraction bits, by the weights of R267. -/
def fractionSum (raw : Temperature) : Nat :=
  (if raw.getLsbD 0 then 625 else 0) + (if raw.getLsbD 1 then 1250 else 0) + (if raw.getLsbD 2 then 2500 else 0)
    + (if raw.getLsbD 3 then 5000 else 0)

/-- `format_temperature(raw)` (R267), as ASCII bytes: '-' is 0x2D, '.' is 0x2E. -/
def formatTemperature (raw : Temperature) : List Byte :=
  let t := sixteenths raw
  let f := raw.extractLsb' 0 4
  let w := t.tdiv 16
  let s := fractionSum raw
  let neg := decide (t < 0)
  let whole := if neg then -w else w
  let frac := if neg && f != 0#4 then 10000 - s else s
  let text := (if neg then [0x2D#8] else []) ++ decimal whole.toNat
  if frac = 0 then text else text ++ [0x2E#8] ++ trimZeros (fourDigits frac)

/-- The result frame of a result: tag byte, then payload (30_encoding.md R82, R83, R88, R90). -/
def encodeResult : Result → List Byte
  | .unit => [0x00#8]
  | .bit b => [0x00#8, boolCode b]
  | .byte v => [0x00#8, v]
  | .outcome (.found code) => outcomeCode (.found code) :: romBytes code
  | .outcome o => [outcomeCode o]
  | .pad (.ok f) => 0x00#8 :: padBytes f
  | .pad .checksumError => [0x01#8]
  | .temp (.ok raw) => [0x00#8, lowByte raw, highByte raw]
  | .temp .checksumError => [0x01#8]
  | .bool b => [0x00#8, boolCode b]
  | .status w => [0x00#8, lowByte w, highByte w]
  | .text ascii => 0x00#8 :: BitVec.ofNat 8 ascii.length :: ascii

end Sys2Proof.Machine
end

