-- ==== Sys2Proof/Machine/Engine.lean ====
section
/-! DEFINITION. The commands that touch neither the bus nor `S`: CRC8 (42_crc8.md R162) and
FORMAT_TEMPERATURE (45_scratchpad_codec.md R268). -/

namespace Sys2Proof.Machine

/-- CRC8 (R162). -/
def execCrc8 (data : List Byte) (s : State) : Outcome :=
  command (.crc8 data) (fun s => (.byte (crc8 s.config data), s)) s

/-- FORMAT_TEMPERATURE (R268). -/
def execFormatTemperature (t16 : Temperature) (s : State) : Outcome :=
  command (.formatTemperature t16) (fun s => (.text (formatTemperature t16), s)) s

end Sys2Proof.Machine
end

