-- ==== Sys2Proof/Machine/Search.lean ====
section
/-! DEFINITION. The ROM search state machine and its discrepancy tracker (43_rom_search.md): START_SEARCH (R180)
and SEARCH_STEP (R181, in full R192). -/

namespace Sys2Proof.Machine

/-- START_SEARCH's writes (R180). -/
def startCursor (s : State) : State :=
  { s with lastDiscrepancy := -1, romAcc := 0#64, searchState := .running }

/-- START_SEARCH (R180): allowed in every search state; no bus event. -/
def execStartSearch (s : State) : Outcome :=
  command .startSearch (fun s => (.unit, startCursor s)) s

/-- The bit chosen at a discrepancy (R189): retrace below the last discrepancy, 1 at it, 0 above it. -/
def chooseBit (ld : Int) (acc : RomCode) (i : Nat) : Bool :=
  if (i : Int) < ld then acc.getLsbD i else decide ((i : Int) = ld)

/-- Whether a discrepancy resolved to `dir` becomes the last-zero candidate (R190). -/
def recordsZero (rule : ZeroRule) (ld : Int) (i : Nat) (dir : Bool) : Bool :=
  !dir && (decide (rule = .anyZero) || decide (ld < (i : Int)))

/-- The direction bit at position `i` for the pair `b1`, `b2`, not both 1 (R188, R189). -/
def directionBit (ld : Int) (acc : RomCode) (i : Nat) (b1 b2 : Bool) : Bool :=
  if b1 = b2 then chooseBit ld acc i else b1

/-- The last-zero candidate after position `i` (R188, R190). -/
def nextLastZero (rule : ZeroRule) (ld : Int) (acc : RomCode) (i : Nat) (b1 b2 : Bool) (lastZero : Int) : Int :=
  if b1 = b2 then (if recordsZero rule ld i (chooseBit ld acc i) then (i : Int) else lastZero) else lastZero

/-- The chosen bit goes to the bus and into the accumulator (R191). -/
def writeDirection (p : Params) (i : Nat) (dir : Bool) (s : State) : State :=
  { writeBit p dir s with romAcc := setBit s.romAcc i dir }

/-- `n` positions from `i` on (R186 to R191). The candidate, or none where both bits of a pair read 1 (R187). -/
def searchPositions (p : Params) (ld : Int) : Nat → Nat → Int → State → Option Int × State
  | 0, _, lastZero, s => (some lastZero, s)
  | n + 1, i, lastZero, s =>
    let r1 := slotRead p s
    let r2 := slotRead p r1.2
    if r1.1 && r2.1 then (none, r2.2)
    else
      searchPositions p ld n (i + 1) (nextLastZero p.zeroRule ld r2.2.romAcc i r1.1 r2.1 lastZero)
        (writeDirection p i (directionBit ld r2.2.romAcc i r1.1 r2.1) r2.2)

/-- A search that ends without a code: its terminal state and its cause (R184, R187, R194). -/
def endSearch (st : SearchState) (cause : ErrCause) (s : State) : State :=
  { s with searchState := st, err := cause }

/-- The cursor after the last position (R193). -/
def closePass (lastZero : Int) (s : State) : State :=
  { s with
    lastDiscrepancy := lastZero
    searchState := if lastZero = -1 then .done else s.searchState }

/-- The end of a pass that went through all `ROM_BITS` positions: R193, then the check of R194, then R195. -/
def concludePass (p : Params) (lastZero : Int) (s : State) : SearchOutcome × State :=
  if romOk p s.romAcc then (.found s.romAcc, { closePass lastZero s with err := .none })
  else (.checksumMismatch, endSearch .checksumMismatch .checksumMismatch (closePass lastZero s))

/-- One search pass from its reset slot on (R184 to R195). -/
def searchPass (p : Params) (s : State) : SearchOutcome × State :=
  let r := slotReset p s
  if r.1 then
    match searchPositions p s.lastDiscrepancy p.romBits 0 (-1) (sendWire p .searchRom r.2) with
    | (none, s') => (.noDevicePresent, endSearch .noDevicePresent .noDeviceResponse s')
    | (some lastZero, s') => concludePass p lastZero s'
  else (.noDevicePresent, endSearch .noDevicePresent .noDevicePresent r.2)

/-- What a SEARCH_STEP does once it is not refused: in a terminal state it returns that state's tag and does
nothing else (R182); otherwise it makes a pass. -/
def searchStep (p : Params) (s : State) : SearchOutcome × State :=
  match s.searchState with
  | .done => (.done, s)
  | .noDevicePresent => (.noDevicePresent, s)
  | .checksumMismatch => (.checksumMismatch, s)
  | .notStarted | .running => searchPass p s

/-- SEARCH_STEP (R181, R192): refused before START_SEARCH (R183), after the check of `S.init` (R309). -/
def execSearchStep (s : State) : Outcome :=
  if s.init = true ∧ s.searchState = .notStarted then .next (refuse .searchNotStarted s)
  else command .searchStep (fun s => (.outcome (searchStep s.config s).1, (searchStep s.config s).2)) s

end Sys2Proof.Machine
end

