-- ==== Sys2Proof/Machine/Session.lean ====
section
/-! DEFINITION. The device session (44_device_session.md): MATCH_ROM, REQUEST_CONVERSION, POLL_CONVERSION_DONE,
READ_SCRATCHPAD, READ_TEMPERATURE and SET_RESOLUTION. No command here reads or writes the search cursor. -/

namespace Sys2Proof.Machine

/-- `match_rom(rom)` (R220): reset, 0x55, the eight address bytes. The presence bit is not tested (R222). -/
def matchRom (p : Params) (rom : RomCode) (s : State) : State :=
  writeBytes p (romBytes rom) (sendWire p .matchRom (slotReset p s).2)

/-- `read_scratchpad(rom)` up to its check (R230): match, 0xBE, `SCRATCHPAD_BYTES` bytes, all of
them always read. -/
def fetchScratchpad (p : Params) (rom : RomCode) (s : State) : Scratchpad × State :=
  let r := readBytes p p.scratchpadBytes (sendWire p .readScratchpad (matchRom p rom s))
  (decodeFrame r.1, r.2)

/-- `read_scratchpad(rom)` (R230): a frame that fails `pad_ok` is dropped whole (30_encoding.md R83). -/
def readScratchpad (p : Params) (rom : RomCode) (s : State) : Checked Scratchpad × State :=
  let r := fetchScratchpad p rom s
  if padOk p r.1 then (.ok r.1, r.2) else (.checksumError, r.2)

/-- `S.err <- cause` (R27). -/
def setErr (cause : ErrCause) (s : State) : State :=
  { s with err := cause }

/-- READ_SCRATCHPAD after it is accepted (R231). -/
def readScratchpadBody (p : Params) (rom : RomCode) (s : State) : Checked Scratchpad × State :=
  match readScratchpad p rom s with
  | (.ok f, s') => (.ok f, setErr .none s')
  | (.checksumError, s') => (.checksumError, setErr .checksumMismatch s')

/-- READ_TEMPERATURE after it is accepted (R235). -/
def readTemperatureBody (p : Params) (rom : RomCode) (s : State) : Checked Temperature × State :=
  match readScratchpad p rom s with
  | (.ok f, s') => (.ok (decodeTemperature f), setErr .none s')
  | (.checksumError, s') => (.checksumError, setErr .checksumMismatch s')

/-- The write transaction of SET_RESOLUTION: match, 0x4E, the three user-writable bytes (R245, R246). -/
def writeScratchpad (p : Params) (rom : RomCode) (f : Scratchpad) (s : State) : State :=
  writeBytes p (writeFrame p f) (sendWire p .writeScratchpad (matchRom p rom s))

/-- SET_RESOLUTION after it is accepted (R245): fails closed, with no write, where the check fails. -/
def setResolutionBody (p : Params) (rom : RomCode) (res : Resolution) (s : State) : Bool × State :=
  match readScratchpad p rom s with
  | (.ok f, s') => (true, setErr .none (writeScratchpad p rom { f with cfg := cfgByte p res } s'))
  | (.checksumError, s') => (false, setErr .checksumMismatch s')

/-- MATCH_ROM (R221). -/
def execMatchRom (rom : RomCode) (s : State) : Outcome :=
  command (.matchRom rom) (fun s => (.unit, matchRom s.config rom s)) s

/-- REQUEST_CONVERSION (R225): the core keeps no record that a conversion is pending (R226). -/
def execRequestConversion (rom : RomCode) (s : State) : Outcome :=
  command (.requestConversion rom) (fun s => (.unit, sendWire s.config .convertT (matchRom s.config rom s))) s

/-- POLL_CONVERSION_DONE (R228): one read slot; the operand is accepted and addresses nothing (90_conflicts.md C6). -/
def execPollConversionDone (rom : RomCode) (s : State) : Outcome :=
  command (.pollConversionDone rom) (fun s => (.bool (slotRead s.config s).1, (slotRead s.config s).2)) s

/-- READ_SCRATCHPAD (R231). -/
def execReadScratchpad (rom : RomCode) (s : State) : Outcome :=
  command (.readScratchpad rom)
    (fun s => (.pad (readScratchpadBody s.config rom s).1, (readScratchpadBody s.config rom s).2)) s

/-- READ_TEMPERATURE (R235). -/
def execReadTemperature (rom : RomCode) (s : State) : Outcome :=
  command (.readTemperature rom)
    (fun s => (.temp (readTemperatureBody s.config rom s).1, (readTemperatureBody s.config rom s).2)) s

/-- SET_RESOLUTION (R245). -/
def execSetResolution (rom : RomCode) (res : Resolution) (s : State) : Outcome :=
  command (.setResolution rom res)
    (fun s => (.bool (setResolutionBody s.config rom res s).1, (setResolutionBody s.config rom res s).2)) s

end Sys2Proof.Machine
end

