-- ==== Sys2Proof/Machine/System.lean ====
section
/-! DEFINITION. INIT (70_reset_and_hazards.md R343) and READ_STATUS (60_exceptions.md R308). -/

namespace Sys2Proof.Machine

/-- The fields of `S` as INIT leaves them (R343). INIT is the only core reset (R342). -/
def initialiseCore (s : State) : State :=
  { s with
    init := true
    searchState := .notStarted
    lastDiscrepancy := -1
    romAcc := 0#64
    presence := false
    err := .none
    busDrive := .released }

/-- INIT binds the timing implementation that was injected at construction (10_state.md R29, R343). -/
def bindTiming (s : State) : State :=
  { s with timing := some s.injected }

/-- INIT (R343): accepted in every state, also while `S.init` is false; no bus event. -/
def execInit (s : State) : Outcome :=
  .next (finishCommand .init .unit (bindTiming (initialiseCore (beginCommand s))))

/-- READ_STATUS (R308): nothing written, no bus event. -/
def execReadStatus (s : State) : Outcome :=
  command .readStatus (fun s => (.status (statusWord s), s)) s

end Sys2Proof.Machine
end

