-- ==== Sys2Proof/Machine/Wire.lean ====
section
/-! DEFINITION. The five 1-Wire command bytes as instructions (30_encoding.md R85): each goes on the bus as one
byte, LSB first (41_byte_transport.md R140), and nothing else. The transactions they open are the commands that
send them (R86). Like every use of the bus they need `S.init` (log entry 3). -/

namespace Sys2Proof.Machine

/-- WIRE.SEARCH_ROM: 0xF0 (R85, 43_rom_search.md R185). -/
def execWireSearchRom (s : State) : Outcome :=
  command .wireSearchRom (fun s => (.unit, sendWire s.config .searchRom s)) s

/-- WIRE.MATCH_ROM: 0x55 (R85, 44_device_session.md R220). -/
def execWireMatchRom (s : State) : Outcome :=
  command .wireMatchRom (fun s => (.unit, sendWire s.config .matchRom s)) s

/-- WIRE.CONVERT_T: 0x44 (R85, 44_device_session.md R225). -/
def execWireConvertT (s : State) : Outcome :=
  command .wireConvertT (fun s => (.unit, sendWire s.config .convertT s)) s

/-- WIRE.READ_SCRATCHPAD: 0xBE (R85, 44_device_session.md R230). -/
def execWireReadScratchpad (s : State) : Outcome :=
  command .wireReadScratchpad (fun s => (.unit, sendWire s.config .readScratchpad s)) s

/-- WIRE.WRITE_SCRATCHPAD: 0x4E (R85, 44_device_session.md R245). -/
def execWireWriteScratchpad (s : State) : Outcome :=
  command .wireWriteScratchpad (fun s => (.unit, sendWire s.config .writeScratchpad s)) s

end Sys2Proof.Machine
end

