-- ==== Sys2Proof/Machine/Dispatch.lean ====
section
/-! DEFINITION. One arm per instruction. -/

namespace Sys2Proof.Machine

/-- The meaning of each instruction (30_encoding.md R84, R85). -/
def exec (i : Instr) (s : State) : Host.Outcome State Fault Refusal :=
  match i with
  | .init => Sys2Proof.Machine.execInit s
  | .readStatus => Sys2Proof.Machine.execReadStatus s
  | .write1 => Sys2Proof.Machine.execWrite1 s
  | .write0 => Sys2Proof.Machine.execWrite0 s
  | .readBit => Sys2Proof.Machine.execReadBit s
  | .reset => Sys2Proof.Machine.execReset s
  | .writeByte v8 => Sys2Proof.Machine.execWriteByte v8 s
  | .readByte => Sys2Proof.Machine.execReadByte s
  | .crc8 data => Sys2Proof.Machine.execCrc8 data s
  | .startSearch => Sys2Proof.Machine.execStartSearch s
  | .searchStep => Sys2Proof.Machine.execSearchStep s
  | .matchRom rom => Sys2Proof.Machine.execMatchRom rom s
  | .requestConversion rom => Sys2Proof.Machine.execRequestConversion rom s
  | .pollConversionDone rom => Sys2Proof.Machine.execPollConversionDone rom s
  | .readScratchpad rom => Sys2Proof.Machine.execReadScratchpad rom s
  | .readTemperature rom => Sys2Proof.Machine.execReadTemperature rom s
  | .setResolution rom res => Sys2Proof.Machine.execSetResolution rom res s
  | .formatTemperature t16 => Sys2Proof.Machine.execFormatTemperature t16 s
  | .wireSearchRom => Sys2Proof.Machine.execWireSearchRom s
  | .wireMatchRom => Sys2Proof.Machine.execWireMatchRom s
  | .wireConvertT => Sys2Proof.Machine.execWireConvertT s
  | .wireReadScratchpad => Sys2Proof.Machine.execWireReadScratchpad s
  | .wireWriteScratchpad => Sys2Proof.Machine.execWireWriteScratchpad s

end Sys2Proof.Machine
end

