-- ==== Sys2Proof/Machine/Fetch.lean ====
section
/-! DEFINITION. Taking the host's next frame. The core has no program counter and fetches no instructions
(10_state.md R21): it takes frames one at a time, in the order the host issues them (20_memory.md R67,
70_reset_and_hazards.md R350). -/

namespace Sys2Proof.Machine

/-- The frame taken off the port. -/
def takeFrame (rest : List Frame) (s : State) : State :=
  { s with port := rest }

/-- A frame issued so that the next step takes it. -/
def issueNext (f : Frame) (s : State) : State :=
  { s with port := f :: s.port }

/-- A frame issued after those that wait already. -/
def issueLast (f : Frame) (s : State) : State :=
  { s with port := s.port ++ [f] }

end Sys2Proof.Machine
end

