-- ==== Sys2Proof/Machine/Step.lean ====
section
/-! DEFINITION. One step: the core takes the next frame and performs it to completion (00_scope.md R16). -/

namespace Sys2Proof.Machine

/-- With no frame waiting nothing happens (R341). A frame the decoder refuses leaves a mark (R306, in the order
of R309), and any other frame runs its instruction. -/
def step (s : State) : Host.Outcome State Fault Refusal :=
  match s.port with
  | [] => .next s
  | f :: rest =>
    match decode f with
    | .ok i => exec i (takeFrame rest s)
    | .error why => .next (refuse why (takeFrame rest s))

/-- `s` with the instruction of the opcode table's bits `w` as the next frame (log entry 4). -/
def State.withFetchWord (s : State) (nbits w : Nat) : State :=
  issueNext (tableFrame nbits w) s

end Sys2Proof.Machine
end

