-- ==== Sys2Proof/Machine/HostNotation.lean ====
section
/-! DEFINITION. The host's side: the notation of its programs (30_encoding.md R97), the pseudo-instructions (R98)
and the device cap it keeps (60_exceptions.md R304, R322). None of it is a core command and none of it reaches
the core but as command frames; the host is no agent of the model (00_scope.md R18). -/

namespace Sys2Proof.Machine

/-- A predicate on the last result (R97). -/
inductive HostPredicate where
  | outcomeTag (code : Byte)   -- the tag of a SearchOutcome (R88)
  | checksumError              -- a checked read failed (R90)
  | boolIs (b : Bool)          -- a Bool or Bit result
  deriving DecidableEq, Repr

/-- One line of a host program; labels are line numbers (R97). HOST.CALL is `command`. -/
inductive HostOp where
  | command (i : Instr)
  | branchIf (p : HostPredicate) (label : Nat)
  | halt
  deriving DecidableEq, Repr

/-- How a host program ends. -/
inductive HostStop where
  | halted
  | searchOverflow   -- error cause 4, the host's own (R300, R304)
  | outOfFuel
  | machineStopped
  deriving DecidableEq, Repr

/-- Whether a predicate holds of a result. R97 does not say what a predicate on a result of another kind is: here it
does not hold (DESIGN CHOICE, log entry 17). -/
def hostHolds (p : HostPredicate) (r : Result) : Bool :=
  match p, r with
  | .outcomeTag code, .outcome o => outcomeCode o == code
  | .checksumError, .pad .checksumError => true
  | .checksumError, .temp .checksumError => true
  | .boolIs b, .bool v => v == b
  | .boolIs b, .bit v => v == b
  | _, _ => false

/-- Whether a predicate holds of the last result of the run. R97 does not say what HOST.BR_IF does when no command has
returned a result yet (none issued, or all refused): here the predicate does not hold, so the host does not branch
(DESIGN CHOICE, log entry 17). -/
def hostHoldsLast (p : HostPredicate) (s : State) : Bool :=
  match s.observations.getLast? with
  | some o => hostHolds p o.result
  | none => false

/-- `DISCOVER` from line `base` on (R98). -/
def pseudoDiscover (base : Nat) : List HostOp :=
  [.command .startSearch, .command .searchStep, .branchIf (.outcomeTag 0x00#8) (base + 1)]

/-- `WAIT_CONVERSION rom` from line `base` on (R98). -/
def pseudoWaitConversion (rom : RomCode) (base : Nat) : List HostOp :=
  [.command (.pollConversionDone rom), .branchIf (.boolIs false) base]

/-- `WRITE_BIT b` (R98). -/
def pseudoWriteBit (b : Bool) : Instr :=
  if b then .write1 else .write0

/-- The Found outcomes since the last START_SEARCH, given those counted before (R304). -/
def foundSinceStart : Nat → List Observation → Nat
  | n, [] => n
  | n, o :: os =>
    match o.command, o.result with
    | .startSearch, _ => foundSinceStart 0 os
    | _, .outcome (.found _) => foundSinceStart (n + 1) os
    | _, _ => foundSinceStart n os

/-- SearchOverflow (R304): a Found came when the count already equalled the cap. -/
def searchOverflow (cap : Nat) (obs : List Observation) : Bool :=
  decide (cap < foundSinceStart 0 obs)

/-- The host runs its program: it issues a command, waits for its result, and counts the Found outcomes against
its cap, `MAX_DEVICES` (R304, R322). R97 says only that HOST.HALT ends a program: here a host that runs past its last
line without HOST.HALT halts there too (DESIGN CHOICE, log entry 17). -/
def hostRun (prog : List HostOp) : Nat → Nat → State → HostStop × State
  | 0, _, s => (.outOfFuel, s)
  | fuel + 1, line, s =>
    match prog.getD line .halt with
    | .halt => (.halted, s)
    | .branchIf p label => hostRun prog fuel (if hostHoldsLast p s then label else line + 1) s
    | .command i =>
      match step (issueNext (encode i) s) with
      | .next t =>
        if searchOverflow t.config.maxDevices t.observations then (.searchOverflow, t)
        else hostRun prog fuel (line + 1) t
      | .fault _ => (.machineStopped, s)
      | .refused _ => (.machineStopped, s)

end Sys2Proof.Machine
end

