-- ==== Sys2Proof/Safety.lean ====
section
/-! DEFINITION. What counts as a safe run, and the terms in which claims about the machine are made: good runs,
the invariant that holds between commands, the transitions of the search state machine, and the shape, the time
and the slots of a bus trace. -/

namespace Sys2Proof.Safety

open Sys2Proof.Machine

/-- A run with a refused command is never a good run (60_exceptions.md R306). -/
def goodRun (s : State) : Prop :=
  s.marks = []

/-- The widths that no configuration changes (00_scope.md R10): a ROM code has 64 bits, a scratchpad frame 9 bytes. -/
def FixedWidths (p : Params) : Prop :=
  p.romBits = 64 ∧ p.scratchpadBytes = 9

/-- The timing implementation that INIT has bound keeps the budget of 40_bit_slots.md R120: the line is sampled as the
rules of the reference bus say (93_implementation_defined.md U1). -/
def OnTime (s : State) : Prop :=
  keepsBudget s.config s.timing = true

/-- What holds between any two commands (10_state.md R35, 20_memory.md R70), with the configuration's widths (R10),
its binding (R29) and the validity of the ROM codes on a reference bus (R61). -/
structure Inv (s : State) : Prop where
  /-- `−1 ≤ S.last_discrepancy`. -/
  ldLow : -1 ≤ s.lastDiscrepancy
  /-- `S.last_discrepancy ≤ 63`. -/
  ldHigh : s.lastDiscrepancy ≤ 63
  /-- `S.search_state = Done ⇒ S.last_discrepancy = −1`. -/
  doneLd : s.searchState = .done → s.lastDiscrepancy = -1
  /-- `S.bus_drive = Released`. -/
  released : s.busDrive = .released
  /-- `S.search_state ≠ NotStarted ⇒ S.init`. -/
  startedInit : s.searchState ≠ .notStarted → s.init = true
  /-- `S.err` is one of the codes 0 to 3. -/
  errCore : s.err ≠ .searchOverflow
  /-- No command is part-way (R16): the trace being built is empty. -/
  noTrace : s.trace = []
  /-- The widths of R10. -/
  widths : FixedWidths s.config
  /-- `S.init` says that INIT has bound the injected timing implementation (R22, R29). -/
  bound : s.init = true → s.timing = some s.injected
  /-- Every reference device has a ROM code with a valid CRC (R61). -/
  validRoms : envWf s.config s.env = true

/-- The transitions of the search state machine that 10_state.md R32 lists, by command; every other command
leaves the state as it is. -/
def SearchTransition (i : Instr) (a b : SearchState) : Prop :=
  match i with
  | .init => b = .notStarted
  | .startSearch => b = .running
  | .searchStep =>
    (a = .running ∧ (b = .running ∨ b = .done ∨ b = .noDevicePresent ∨ b = .checksumMismatch)) ∨
      ((a = .done ∨ a = .noDevicePresent ∨ a = .checksumMismatch) ∧ b = a)
  | _ => b = a

/-- A command that is not refused (R22, R183, R306): the core is initialised, and a search step has a search to
step. INIT needs neither. -/
def Accepted (i : Instr) (s : State) : Prop :=
  i = .init ∨ (s.init = true ∧ (i = .searchStep → s.searchState ≠ .notStarted))

/-- The mark that a waiting frame leaves, by the order of R309: what the decoder refuses first, then a command
before INIT, then a search step before START_SEARCH; none where the command is performed. -/
def refusalOf (f : Frame) (s : State) : List RefuseReason :=
  match decode f with
  | .error why => [why]
  | .ok i =>
    if i ≠ .init ∧ s.init = false then [.notInitialised]
    else if i = .searchStep ∧ s.searchState = .notStarted then [.searchNotStarted]
    else []

/-- The bit pair read at search position `i`, from the pairs of a pass (43_rom_search.md R186). -/
def pairAt (pairs : List (Bool × Bool)) (i : Nat) : Bool × Bool :=
  pairs.getD i (true, true)

/-- The direction that R188 and R189 give position `i` of a pass, from the last discrepancy and the accumulator
at the pass's entry. -/
def directionAt (ld : Int) (acc : RomCode) (pairs : List (Bool × Bool)) (i : Nat) : Bool :=
  if (pairAt pairs i).1 ≠ (pairAt pairs i).2 then (pairAt pairs i).1
  else if (i : Int) < ld then acc.getLsbD i
  else if (i : Int) = ld then true
  else false

/-- Position `i` is a discrepancy that the pass resolves to 0 and records as its last-zero candidate: any such position
under ANY_ZERO, only one above the last discrepancy under NEW_ONLY (R190). -/
def RecordsZero (rule : ZeroRule) (ld : Int) (acc : RomCode) (pairs : List (Bool × Bool)) (i : Nat) : Prop :=
  pairAt pairs i = (false, false) ∧ directionAt ld acc pairs i = false ∧ (rule = .newOnly → ld < (i : Int))

/-- The CRC of a ROM code's first seven bytes, in the byte order that `ROM_CRC_ORDER` says (42_crc8.md R164). -/
def romCrc (p : Params) (code : RomCode) : Byte :=
  match p.romCrcOrder with
  | .wire => crc8 p ((romBytes code).take 7)
  | .reversed => crc8 p ((romBytes code).take 7).reverse

/-- The samples of a list of pairs, in the order they are read (R186). -/
def pairSamples (pairs : List (Bool × Bool)) : List Bool :=
  pairs.flatMap fun b => [b.1, b.2]

/-- The trace of `write_bit(b)` (40_bit_slots.md R113, R114, R126). -/
def writeBitTrace (p : Params) (b : Bool) : List BusEvent :=
  if b then [.driveLow, .wait p.tA, .release, .wait p.tB] else [.driveLow, .wait p.tC, .release, .wait p.tD]

/-- The trace of a read slot that reads `v` (R115). -/
def readBitTrace (p : Params) (v : Bool) : List BusEvent :=
  [.driveLow, .wait p.tA, .release, .wait p.tE, .sample v, .wait p.tF]

/-- The trace of a reset slot whose presence window reads `v` (R116). -/
def resetTrace (p : Params) (v : Bool) : List BusEvent :=
  [.wait p.tG, .driveLow, .wait p.tH, .release, .wait p.tI, .sample v, .wait p.tJ]

/-- The trace of a written byte (41_byte_transport.md R140). -/
def writeByteTrace (p : Params) (v : Byte) : List BusEvent :=
  (byteBits v).flatMap (writeBitTrace p)

/-- The trace of written bytes, in order (R144). -/
def writeBytesTrace (p : Params) (vs : List Byte) : List BusEvent :=
  vs.flatMap (writeByteTrace p)

/-- The trace of a read byte (R142). -/
def readByteTrace (p : Params) (v : Byte) : List BusEvent :=
  (byteBits v).flatMap (readBitTrace p)

/-- The trace of the match transaction whose presence window reads `v` (30_encoding.md R86, R220). -/
def matchTrace (p : Params) (rom : RomCode) (v : Bool) : List BusEvent :=
  resetTrace p v ++ writeBytesTrace p (0x55#8 :: romBytes rom)

/-- The trace of the read transaction in which these bytes are read (R86, R230). -/
def readBytesTrace (p : Params) (rom : RomCode) (v : Bool) (bytes : List Byte) : List BusEvent :=
  matchTrace p rom v ++ writeByteTrace p 0xBE#8 ++ bytes.flatMap (readByteTrace p)

/-- The trace of the read transaction that reads a frame: all nine bytes. -/
def readPadTrace (p : Params) (rom : RomCode) (v : Bool) (f : Scratchpad) : List BusEvent :=
  readBytesTrace p rom v (padBytes f)

/-- The trace of the write transaction (R86, R245). -/
def writePadTrace (p : Params) (rom : RomCode) (v : Bool) (payload : List Byte) : List BusEvent :=
  matchTrace p rom v ++ writeBytesTrace p (0x4E#8 :: payload)

/-- The trace of positions 0 to `n − 1` of a pass (R86, R186, R191). -/
def positionsTrace (p : Params) (ld : Int) (acc : RomCode) (pairs : List (Bool × Bool)) (n : Nat) : List BusEvent :=
  (List.range n).flatMap fun i =>
    readBitTrace p (pairAt pairs i).1 ++ readBitTrace p (pairAt pairs i).2
      ++ writeBitTrace p (directionAt ld acc pairs i)

/-- The modelled time of an event, in microseconds: only waits take time (70_reset_and_hazards.md R361). -/
def eventTime : BusEvent → Nat
  | .wait us => us
  | .driveLow | .release | .sample _ => 0

/-- The modelled time of a trace (R360). -/
def traceTime (tr : List BusEvent) : Nat :=
  (tr.map eventTime).sum

/-- The number of slots in a trace: every slot drives the line low once (R112). -/
def slotCount (tr : List BusEvent) : Nat :=
  tr.countP (· == .driveLow)

/-- The number of reset slots in a trace: only a reset slot waits `T_H` (R112, R116; no other constant of R110 is 480). -/
def resetCount (p : Params) (tr : List BusEvent) : Nat :=
  tr.countP (· == .wait p.tH)

/-- Whether every sample of a trace is taken with the line released (R118), given the drive state before it. -/
def samplesReleased : Drive → List BusEvent → Bool
  | _, [] => true
  | _, .driveLow :: tr => samplesReleased .low tr
  | _, .release :: tr => samplesReleased .released tr
  | d, .wait _ :: tr => samplesReleased d tr
  | d, .sample _ :: tr => d == .released && samplesReleased d tr

/-- The drive state after a trace, given the one before it (R111). -/
def driveAfter : Drive → List BusEvent → Drive
  | d, [] => d
  | _, .driveLow :: tr => driveAfter .low tr
  | _, .release :: tr => driveAfter .released tr
  | d, .wait _ :: tr => driveAfter d tr
  | d, .sample _ :: tr => driveAfter d tr

/-- `a` comes before `b` in wire-bit order: at the lowest position where they differ, `a` has 0 (R197). -/
def WireBefore (a b : RomCode) : Prop :=
  ∃ i, i < 64 ∧ (∀ j, j < i → a.getLsbD j = b.getLsbD j) ∧ a.getLsbD i = false ∧ b.getLsbD i = true

/-- The results of `n` SEARCH_STEP commands in a row, and the state after them. -/
def searchSteps : Nat → State → List Result × State
  | 0, s => ([], s)
  | n + 1, s =>
    match exec .searchStep s with
    | .next t =>
      let rest := searchSteps n t
      (((t.observations.drop s.observations.length).map (·.result)) ++ rest.1, rest.2)
    | .fault _ => ([], s)
    | .refused _ => ([], s)

/-- The number a string of ASCII digits stands for. -/
def digitsValue (ds : List Byte) : Nat :=
  ds.foldl (fun n d => 10 * n + (d.toNat - 0x30)) 0

/-- An ASCII decimal digit (45_scratchpad_codec.md R269). -/
def IsDigit (d : Byte) : Prop :=
  0x30 ≤ d.toNat ∧ d.toNat ≤ 0x39

end Sys2Proof.Safety
end

