-- ==== Sys2Proof/Certificates/Slice0/Obligations.lean ====
section
/-! DEFINITION. The statements for the provers. Each docstring names the rules of spec/ it formalises.
In every statement a sample is whatever the environment gives (20_memory.md R59): a statement holds for every
environment of the state, so for every draw; where a statement fixes the draws, it holds for every list of them. -/

open Sys2Proof Sys2Proof.Machine Sys2Proof.Safety

/-! ### Encoding (30_encoding.md, 60_exceptions.md R306, R309) -/

/-- R81, R84, R85, R89, R92: every well-formed instruction is what its own frame decodes to. -/
def Obligations.EncodedFrameDecodesBack : Prop :=
  ∀ i : Instr, wellFormed i = true → decode (encode i) = .ok i

/-- R81, R84, R85, R92: a frame that decodes has one meaning, and that instruction's frame is the frame itself. -/
def Obligations.DecodedFrameIsCanonical : Prop :=
  ∀ (f : Frame) (i : Instr), decode f = .ok i → wellFormed i = true ∧ encode i = f

/-- R81, R84, R85, R89, R92 on frames written out byte by byte (the frames of V-ENC-1 among them). -/
def Obligations.SpecFramesDecode : Prop :=
  decode (.command [0x01#8]) = .ok .init ∧
  decode (.command [0x02#8]) = .ok .readStatus ∧
  decode (.command [0x10#8]) = .ok .write1 ∧
  decode (.command [0x12#8]) = .ok .readBit ∧
  decode (.command [0x20#8, 0xCC#8]) = .ok (.writeByte 0xCC#8) ∧
  decode (.command [0x30#8, 0x02#8, 0xAA#8, 0xBB#8]) = .ok (.crc8 [0xAA#8, 0xBB#8]) ∧
  decode (.command [0x41#8]) = .ok .searchStep ∧
  decode (.command [0x50#8, 0x28#8, 0x01#8, 0x00#8, 0x00#8, 0x00#8, 0x00#8, 0x00#8, 0x29#8]) =
    .ok (.matchRom 0x2900000000000128#64) ∧
  decode (.command [0x55#8, 0x28#8, 0x01#8, 0x00#8, 0x00#8, 0x00#8, 0x00#8, 0x00#8, 0x29#8, 0x03#8]) =
    .ok (.setResolution 0x2900000000000128#64 .r12) ∧
  decode (.command [0x60#8, 0x91#8, 0x01#8]) = .ok (.formatTemperature 0x0191#16) ∧
  decode (.wire 0xF0#8) = .ok .wireSearchRom

/-- R93: exactly the listed opcodes are reserved, and such a frame, whatever follows its opcode and whatever
state the core is in, produces no bus event, no state change, and no result beyond the refusal's mark. -/
def Obligations.ReservedOpcodeIsRefused : Prop :=
  ∀ (v : Byte) (operands : List Byte),
    (decode (.command (v :: operands)) = .error .reservedOpcode ↔
      (v.toNat = 0x00 ∨ (0x03 ≤ v.toNat ∧ v.toNat ≤ 0x0F) ∨ (0x14 ≤ v.toNat ∧ v.toNat ≤ 0x1F) ∨
        (0x22 ≤ v.toNat ∧ v.toNat ≤ 0x2F) ∨ (0x31 ≤ v.toNat ∧ v.toNat ≤ 0x3F) ∨
        (0x42 ≤ v.toNat ∧ v.toNat ≤ 0x4F) ∨ (0x56 ≤ v.toNat ∧ v.toNat ≤ 0x5F) ∨ 0x61 ≤ v.toNat)) ∧
    ∀ (s : State) (rest : List Frame), s.port = .command (v :: operands) :: rest →
      decode (.command (v :: operands)) = .error .reservedOpcode →
        step s = .next { s with port := rest, marks := s.marks ++ [.reservedOpcode] }

/-- R81, R92: a frame of a known opcode that is shorter or longer than its format is refused as a bad frame,
before its operands are looked at (R309). -/
def Obligations.WrongFrameLengthIsRefused : Prop :=
  ∀ (op : Opcode) (operands : List Byte),
    (match opcodeFormat op with
      | .n => operands.length ≠ 0
      | .b => operands.length ≠ 1
      | .l => operands.length ≠ 1 + (operands.headD 0#8).toNat
      | .r => operands.length ≠ 8
      | .rs => operands.length ≠ 9
      | .t => operands.length ≠ 2) →
    decode (.command (opcodeByte op :: operands)) = .error .badFrame

/-- R89, R92: bits 1:0 of a `res` byte select the resolution, and a byte with any of bits 7:2 set is refused. -/
def Obligations.ResolutionOperandDecodes : Prop :=
  ∀ (rom : RomCode) (v : Byte),
    (v &&& 0xFC#8 ≠ 0#8 → decode (.command (0x55#8 :: (romBytes rom ++ [v]))) = .error .badOperand) ∧
    (v &&& 0xFC#8 = 0#8 →
      decode (.command (0x55#8 :: (romBytes rom ++ [v]))) =
        .ok (.setResolution rom
          (if v = 0#8 then .r9 else if v = 1#8 then .r10 else if v = 2#8 then .r11 else .r12)))

/-- R306, R309: a waiting frame leaves at most one mark: what the decoder refuses comes first, then a command
before INIT, then a search step before START_SEARCH; and a frame that leaves a mark changes no field of `S`, makes
no bus event and returns no result. -/
def Obligations.RefusalsComeInOrder : Prop :=
  ∀ (s : State) (f : Frame) (rest : List Frame), s.port = f :: rest →
    ∃ t, step s = .next t ∧ t.marks = s.marks ++ refusalOf f s ∧
      (refusalOf f s ≠ [] → t = { s with port := rest, marks := s.marks ++ refusalOf f s })

/-! ### Stepping -/

/-- R16, R67: when the next frame decodes to an instruction, the step is that instruction's meaning at the state
with the frame taken off the port. -/
def Obligations.StepRunsDecodedInstruction : Prop :=
  ∀ (s : State) (f : Frame) (rest : List Frame) (i : Instr),
    s.port = f :: rest → decode f = .ok i → step s = exec i { s with port := rest }

/-- R341: with no command issued the core does nothing. -/
def Obligations.StepWithoutFrameIsIdle : Prop :=
  ∀ s : State, s.port = [] → step s = .next s

/-- R310: every step, of every state, answers a next state: no command traps, faults or stops the machine. That a
refused frame (log entry 2) and an empty port (log entry 5) answer a next state too is the model's own choice
(DESIGN CHOICE); R306 and R341 say only that nothing else happens. -/
def Obligations.EveryStepAnswersNextState : Prop :=
  ∀ s : State, ∃ t, step s = .next t

/-- R16, R70, R80: every instruction that is not refused completes, with one result and one trace, in issue
order after what was observed before. -/
def Obligations.AcceptedCommandCompletes : Prop :=
  ∀ (i : Instr) (s : State), Accepted i s →
    ∃ r tr t, exec i s = .next t ∧ t.observations = s.observations ++ [⟨i, r, tr⟩] ∧ t.trace = [] ∧
      t.marks = s.marks ∧ t.port = s.port

/-- R22: before INIT every other command is refused; INIT makes `S.init` true, and it stays so. R22 speaks of the
commands of the command port; that the five wire rows are held to it too is the model's own choice (DESIGN CHOICE, log
entry 3). -/
def Obligations.CommandsNeedInit : Prop :=
  (∀ (i : Instr) (s : State), i ≠ .init → s.init = false →
    exec i s = .next { s with marks := s.marks ++ [.notInitialised] }) ∧
  (∀ (i : Instr) (s t : State), exec i s = .next t → (t.init = true ↔ s.init = true ∨ i = .init)) ∧
  State.reset.init = false

/-- R70, R306: what was observed, the refusal marks and the frames still waiting are never taken back or changed
by an instruction: it adds one observation or one mark, never both. -/
def Obligations.HistoryOnlyGrows : Prop :=
  ∀ (i : Instr) (s t : State), exec i s = .next t →
    t.port = s.port ∧
    ((∃ o, t.observations = s.observations ++ [o] ∧ o.command = i ∧ t.marks = s.marks) ∨
      (∃ why, t.marks = s.marks ++ [why] ∧ t.observations = s.observations))

/-- R59, R67: what an instruction does to `S`, the environment and its own observation does not depend on the
frames that wait, on what was observed before, or on earlier marks. -/
def Obligations.ExecIgnoresHistory : Prop :=
  ∀ (i : Instr) (s t : State) (port : List Frame) (obs : List Observation) (marks : List RefuseReason),
    exec i s = .next t →
      ∃ newObs newMarks,
        t.observations = s.observations ++ newObs ∧ t.marks = s.marks ++ newMarks ∧
        exec i { s with port := port, observations := obs, marks := marks } =
          .next { t with port := port, observations := obs ++ newObs, marks := marks ++ newMarks }

/-! ### Reset, INIT and STATUS -/

/-- R340: the core's reset values, STATUS among them, and no transient register. -/
def Obligations.PowerOnValues : Prop :=
  State.reset.init = false ∧ State.reset.searchState = .notStarted ∧ State.reset.lastDiscrepancy = -1 ∧
  State.reset.romAcc = 0#64 ∧ State.reset.presence = false ∧ State.reset.err = .none ∧
  State.reset.busDrive = .released ∧ statusWord State.reset = 0xFF00#16 ∧ State.reset.trace = []

/-- R343, R29: INIT, from any state, writes every field of `S`, binds the injected timing implementation and makes no bus
event; STATUS is then 0xFF80. -/
def Obligations.InitReinitialisesCore : Prop :=
  decode (.command [0x01#8]) = .ok .init ∧
  ∀ s : State, ∃ t, exec .init s = .next t ∧ statusWord t = 0xFF80#16 ∧
    t = { s with
      init := true
      searchState := .notStarted
      lastDiscrepancy := -1
      romAcc := 0#64
      presence := false
      err := .none
      busDrive := .released
      timing := some s.injected
      trace := []
      observations := s.observations ++ [⟨.init, .unit, []⟩] }

/-- R29: the configuration is no state of the core. No instruction changes the parameters or the injected timing
implementation; INIT binds that implementation and nothing else does; a step keeps them too; at power-on the parameters
have R9's values and none is bound. That they stand in the record that `step` takes is the model's form of R29's
arguments (log entry 6). -/
def Obligations.ConfigurationIsConstant : Prop :=
  (∀ (i : Instr) (s t : State), exec i s = .next t →
    t.config = s.config ∧ t.injected = s.injected ∧
    t.timing = if i = .init then some s.injected else s.timing) ∧
  (∀ s t : State, step s = .next t → t.config = s.config ∧ t.injected = s.injected) ∧
  State.reset.config = params ∧ State.reset.timing = none

/-- R308: READ_STATUS returns STATUS, writes nothing and makes no bus event. -/
def Obligations.ReadStatusReturnsStatus : Prop :=
  decode (.command [0x02#8]) = .ok .readStatus ∧
  (∀ s : State, s.init = true →
    exec .readStatus s =
      .next { s with
        trace := []
        observations := s.observations ++ [⟨.readStatus, .status (statusWord s), []⟩] }) ∧
  ∀ s : State, s.init = false → exec .readStatus s = .next { s with marks := s.marks ++ [.notInitialised] }

/-- R31: the fields of STATUS, its reset value, and, between commands, the codes that never occur; the
accumulator is not visible in it. -/
def Obligations.StatusMirrorsState : Prop :=
  (∀ s : State,
    ((statusWord s).extractLsb' 0 3).toNat =
      (match s.searchState with
        | .notStarted => 0 | .running => 1 | .done => 2 | .noDevicePresent => 3 | .checksumMismatch => 4) ∧
    (statusWord s).getLsbD 3 = s.presence ∧
    ((statusWord s).extractLsb' 4 3).toNat =
      (match s.err with
        | .none => 0 | .noDevicePresent => 1 | .noDeviceResponse => 2 | .checksumMismatch => 3
        | .searchOverflow => 4) ∧
    (statusWord s).getLsbD 7 = s.init) ∧
  (∀ s : State, Inv s →
    ((statusWord s).extractLsb' 8 8).toInt = s.lastDiscrepancy ∧
    ((statusWord s).extractLsb' 0 3).toNat ≤ 4 ∧ ((statusWord s).extractLsb' 4 3).toNat ≤ 3) ∧
  (∀ (s : State) (acc : RomCode), statusWord { s with romAcc := acc } = statusWord s) ∧
  statusWord State.reset = 0xFF00#16

/-! ### Bit slots (40_bit_slots.md) -/

/-- R110, R112 to R116: the slot shapes with the source's constants. -/
def Obligations.SlotTracesHaveSpecConstants : Prop :=
  writeBitTrace params true = [.driveLow, .wait 6, .release, .wait 64] ∧
  writeBitTrace params false = [.driveLow, .wait 60, .release, .wait 10] ∧
  (∀ v, readBitTrace params v = [.driveLow, .wait 6, .release, .wait 9, .sample v, .wait 55]) ∧
  (∀ v, resetTrace params v = [.wait 0, .driveLow, .wait 480, .release, .wait 70, .sample v, .wait 410]) ∧
  traceTime (writeBitTrace params true) = 70 ∧ traceTime (writeBitTrace params false) = 70 ∧
  (∀ v, traceTime (readBitTrace params v) = 70) ∧ (∀ v, traceTime (resetTrace params v) = 960)

/-- R122, R113: WRITE1, and its trace at the values of R110. How a reference device moves after a slot whose waits miss the
budget is the model's own choice (DESIGN CHOICE, log entry 19). -/
def Obligations.Write1MakesWrite1Slot : Prop :=
  decode (.command [0x10#8]) = .ok .write1 ∧
  (∀ s : State, s.init = true →
    exec .write1 s =
      .next { s with
        busDrive := .released
        trace := []
        env := envAfterSlot s.config (.write true) s.env
        observations :=
          s.observations ++ [⟨.write1, .unit, writeBitTrace s.config true⟩] }) ∧
  writeBitTrace params true = [.driveLow, .wait 6, .release, .wait 64] ∧
  ∀ s : State, s.init = false → exec .write1 s = .next { s with marks := s.marks ++ [.notInitialised] }

/-- R123, R114: WRITE0, and its trace at the values of R110. How a reference device moves after a slot whose waits miss the
budget is the model's own choice (DESIGN CHOICE, log entry 19). -/
def Obligations.Write0MakesWrite0Slot : Prop :=
  decode (.command [0x11#8]) = .ok .write0 ∧
  (∀ s : State, s.init = true →
    exec .write0 s =
      .next { s with
        busDrive := .released
        trace := []
        env := envAfterSlot s.config (.write false) s.env
        observations :=
          s.observations ++ [⟨.write0, .unit, writeBitTrace s.config false⟩] }) ∧
  writeBitTrace params false = [.driveLow, .wait 60, .release, .wait 10] ∧
  ∀ s : State, s.init = false → exec .write0 s = .next { s with marks := s.marks ++ [.notInitialised] }

/-- R124, R115: READBIT returns the sampled level; with the draws fixed it is the first of them, so either bit; a line
nobody drives reads 1 (R66) while the timing implementation keeps its budget (U1, log entry 11). -/
def Obligations.ReadBitReturnsSample : Prop :=
  decode (.command [0x12#8]) = .ok .readBit ∧
  (∀ s : State, s.init = true → ∃ v env,
    exec .readBit s =
      .next { s with
        busDrive := .released
        trace := []
        env := env
        sampleCount := s.sampleCount + 1
        observations :=
          s.observations ++
            [⟨.readBit, .bit v, readBitTrace s.config v⟩] } ∧
    (∀ b ds, s.env = .draws (b :: ds) → v = b ∧ env = .draws ds) ∧
    (OnTime s → s.env = .reference [] → v = true ∧ env = .reference [])) ∧
  (∀ v, readBitTrace params v = [.driveLow, .wait 6, .release, .wait 9, .sample v, .wait 55]) ∧
  ∀ s : State, s.init = false → exec .readBit s = .next { s with marks := s.marks ++ [.notInitialised] }

/-- R116, R125: RESET returns and records presence, true exactly when the presence window sampled 0; nothing
else of `S` changes. On an empty bus there is none while the timing implementation keeps its budget (R66, U1, log
entry 11). -/
def Obligations.ResetDetectsPresence : Prop :=
  decode (.command [0x13#8]) = .ok .reset ∧
  (∀ s : State, s.init = true → ∃ v env,
    exec .reset s =
      .next { s with
        presence := !v
        busDrive := .released
        trace := []
        env := env
        sampleCount := s.sampleCount + 1
        observations :=
          s.observations ++
            [⟨.reset, .bool (!v), resetTrace s.config v⟩] } ∧
    (∀ b ds, s.env = .draws (b :: ds) → v = b ∧ env = .draws ds) ∧
    (OnTime s → s.env = .reference [] → v = true ∧ env = .reference [])) ∧
  (∀ v, resetTrace params v = [.wait 0, .driveLow, .wait 480, .release, .wait 70, .sample v, .wait 410]) ∧
  ∀ s : State, s.init = false → exec .reset s = .next { s with marks := s.marks ++ [.notInitialised] }

/-! ### Bytes (41_byte_transport.md) -/

/-- R140, R141: WRITEBYTE makes eight write slots, slot `k` carrying bit `k`; nothing of `S` is left changed. -/
def Obligations.WriteByteSendsLsbFirst : Prop :=
  (∀ v8 : Byte, decode (.command [0x20#8, v8]) = .ok (.writeByte v8)) ∧
  (∀ (v8 : Byte) (s : State), s.init = true → ∃ env,
    exec (.writeByte v8) s =
      .next { s with
        busDrive := .released
        trace := []
        env := env
        observations :=
          s.observations ++
            [⟨.writeByte v8, .unit,
              (List.range 8).flatMap fun k => writeBitTrace s.config (v8.getLsbD k)⟩] } ∧
    ∀ ds, s.env = .draws ds → env = .draws ds) ∧
  (∀ b, writeBitTrace params b =
    if b then [.driveLow, .wait 6, .release, .wait 64] else [.driveLow, .wait 60, .release, .wait 10]) ∧
  ∀ (v8 : Byte) (s : State), s.init = false →
    exec (.writeByte v8) s = .next { s with marks := s.marks ++ [.notInitialised] }

/-- R142, R143: READBYTE makes eight read slots, and bit `k` of its result is the bit read in slot `k`; nothing of
`S` is left changed. Any eight draws can be read, so every byte is a possible result. On an empty bus it is 0xFF while
the timing implementation keeps its budget (R66, U1, log entry 11). -/
def Obligations.ReadByteAssemblesLsbFirst : Prop :=
  decode (.command [0x21#8]) = .ok .readByte ∧
  (∀ s : State, s.init = true → ∃ (v : Byte) (env : Env),
    exec .readByte s =
      .next { s with
        busDrive := .released
        trace := []
        env := env
        sampleCount := s.sampleCount + 8
        observations :=
          s.observations ++
            [⟨.readByte, .byte v,
              (List.range 8).flatMap fun k => readBitTrace s.config (v.getLsbD k)⟩] } ∧
    (∀ bits ds, bits.length = 8 → s.env = .draws (bits ++ ds) →
      env = .draws ds ∧ ∀ k, k < 8 → v.getLsbD k = bits.getD k false) ∧
    (OnTime s → s.env = .reference [] → v = 0xFF#8 ∧ env = .reference [])) ∧
  (∀ v, readBitTrace params v = [.driveLow, .wait 6, .release, .wait 9, .sample v, .wait 55]) ∧
  ∀ s : State, s.init = false → exec .readByte s = .next { s with marks := s.marks ++ [.notInitialised] }

/-! ### CRC-8 (42_crc8.md) -/

/-- R160, R161, R162: CRC8 returns the CRC of its bytes and touches neither the bus nor `S`. The CRC of nothing is the
initial register; a further byte goes through `crc8_update`; and that is eight rounds, bit 0 of the byte first, in each
of which the register moves right by one with a 0 coming in and, where the byte's bit differs from the register's bit 0,
takes the polynomial by XOR. Data longer than 255 bytes have no frame: that the command's meaning is the same for them
is the model's own choice (DESIGN CHOICE, log entry 13). -/
def Obligations.Crc8CommandReturnsCrc : Prop :=
  (∀ (data : List Byte) (s : State), s.init = true →
    exec (.crc8 data) s =
      .next { s with
        trace := []
        observations := s.observations ++ [⟨.crc8 data, .byte (crc8 s.config data), []⟩] }) ∧
  (∀ p : Params, crc8 p [] = p.crcInit) ∧
  (∀ (p : Params) (data : List Byte) (d : Byte), crc8 p (data ++ [d]) = crc8Update p (crc8 p data) d) ∧
  (∀ (p : Params) (crc d : Byte), ∃ c : Nat → Byte,
    c 0 = crc ∧ c 8 = crc8Update p crc d ∧
    ∀ k, k < 8 →
      c (k + 1) = (c k >>> 1) ^^^ (if d.getLsbD k ≠ (c k).getLsbD 0 then p.crcPoly else 0x00#8)) ∧
  params.crcInit = 0x00#8 ∧ params.crcPoly = 0x8C#8 ∧
  ∀ (data : List Byte) (s : State), s.init = false →
    exec (.crc8 data) s = .next { s with marks := s.marks ++ [.notInitialised] }

/-- R162, R166 items 3 to 5: a string followed by its own CRC has CRC 0; zero bytes have CRC 0, so an all-zero
frame and an all-zero ROM code pass; eight 0xFF bytes have CRC 0xC9, so nine 0xFF bytes fail. -/
def Obligations.CrcOfCrcIsZero : Prop :=
  (∀ data : List Byte, crc8 params (data ++ [crc8 params data]) = 0x00#8) ∧
  (∀ n : Nat, crc8 params (List.replicate n 0x00#8) = 0x00#8) ∧
  padOk params (decodeFrame (List.replicate 9 0x00#8)) = true ∧ romOk params 0#64 = true ∧
  crc8 params (List.replicate 8 0xFF#8) = 0xC9#8 ∧ padOk params (decodeFrame (List.replicate 9 0xFF#8)) = false

/-- R166 item 2: flipping any single bit of a byte string, of a ROM's or a scratchpad's payload among them,
changes its CRC. -/
def Obligations.SingleBitFlipChangesCrc : Prop :=
  ∀ (data : List Byte) (j k : Nat), j < data.length → k < 8 →
    crc8 params (data.set j (data.getD j 0#8 ^^^ (1#8 <<< k))) ≠ crc8 params data

/-! ### ROM search (43_rom_search.md) -/

/-- R180: START_SEARCH resets the cursor and makes the search Running, from any search state. -/
def Obligations.StartSearchResetsCursor : Prop :=
  decode (.command [0x40#8]) = .ok .startSearch ∧
  (∀ s : State, s.init = true →
    exec .startSearch s =
      .next { s with
        lastDiscrepancy := -1
        romAcc := 0#64
        searchState := .running
        trace := []
        observations := s.observations ++ [⟨.startSearch, .unit, []⟩] }) ∧
  ∀ s : State, s.init = false → exec .startSearch s = .next { s with marks := s.marks ++ [.notInitialised] }

/-- R183: SEARCH_STEP before START_SEARCH is refused. -/
def Obligations.SearchStepBeforeStartIsRefused : Prop :=
  ∀ s : State, s.init = true → s.searchState = .notStarted →
    exec .searchStep s = .next { s with marks := s.marks ++ [.searchNotStarted] }

/-- R182: in a terminal state SEARCH_STEP returns the tag of that state, with no bus event and no write. -/
def Obligations.TerminalSearchStepReturnsTag : Prop :=
  ∀ s : State, s.init = true →
    (s.searchState = .done →
      exec .searchStep s =
        .next { s with
          trace := [], observations := s.observations ++ [⟨.searchStep, .outcome .done, []⟩] }) ∧
    (s.searchState = .noDevicePresent →
      exec .searchStep s =
        .next { s with
          trace := [], observations := s.observations ++ [⟨.searchStep, .outcome .noDevicePresent, []⟩] }) ∧
    (s.searchState = .checksumMismatch →
      exec .searchStep s =
        .next { s with
          trace := [], observations := s.observations ++ [⟨.searchStep, .outcome .checksumMismatch, []⟩] })

/-- R184: a search pass whose presence window samples 1 ends after the reset slot alone, with outcome and
state NoDevicePresent and cause 1, and leaves the cursor as it was; the environment has used up that one draw. The
clause over an empty reference bus is R198, which the spec marks as its own inference (derived: from rule R184); there
the timing implementation keeps its budget (U1, log entry 11). -/
def Obligations.SearchPassWithoutPresence : Prop :=
  ∀ (s : State) (env : Env), s.init = true → s.searchState = .running →
    ((∃ ds, s.env = .draws (true :: ds) ∧ env = .draws ds) ∨
      (OnTime s ∧ s.env = .reference [] ∧ env = .reference [])) →
      exec .searchStep s =
        .next { s with
          searchState := .noDevicePresent
          err := .noDevicePresent
          presence := false
          busDrive := .released
          trace := []
          env := env
          sampleCount := s.sampleCount + 1
          observations :=
            s.observations ++ [⟨.searchStep, .outcome .noDevicePresent, resetTrace s.config true⟩] }

/-- R186 to R191: a pass whose first `i` pairs are not both 1 and whose next pair is both 1 ends there
with outcome and state NoDevicePresent and cause 2 (R187), and the last discrepancy is unchanged. That it has made
`1 + 8 + 3i + 2` slots is R196, which the spec marks as its own inference; that the accumulator keeps the bits this pass
wrote is the model's reading of R187 and R191 (DEDUCED, log entry 7; 93_implementation_defined.md U3). -/
def Obligations.SearchPassAbortsOnTwoOnes : Prop :=
  ∀ (s : State) (pairs : List (Bool × Bool)) (ds : List Bool),
    s.init = true → s.searchState = .running → FixedWidths s.config →
    pairs.length < 64 → (∀ b ∈ pairs, b ≠ (true, true)) →
    s.env = .draws (false :: (pairSamples pairs ++ true :: true :: ds)) →
      ∃ (acc : RomCode) (tr : List BusEvent),
        exec .searchStep s =
          .next { s with
            searchState := .noDevicePresent
            err := .noDeviceResponse
            presence := true
            romAcc := acc
            busDrive := .released
            trace := []
            env := .draws ds
            sampleCount := s.sampleCount + 1 + 2 * (pairs.length + 1)
            observations := s.observations ++ [⟨.searchStep, .outcome .noDevicePresent, tr⟩] } ∧
        tr = resetTrace s.config false ++ writeByteTrace s.config 0xF0#8 ++
          positionsTrace s.config s.lastDiscrepancy s.romAcc pairs pairs.length ++
          readBitTrace s.config true ++ readBitTrace s.config true ∧
        slotCount tr = 1 + 8 + 3 * pairs.length + 2 ∧
        ∀ i, i < 64 →
          acc.getLsbD i =
            if i < pairs.length then directionAt s.lastDiscrepancy s.romAcc pairs i else s.romAcc.getLsbD i

/-- R185 to R195: a pass that finds presence and 64 pairs not both 1. Bit `i` of the code is the direction R188
and R189 give; the new last discrepancy is the highest position recorded as a zero by R190, under either
SEARCH_ZERO_RULE, or −1 if there is none; the code is returned as Found if its CRC holds, in the byte order of
ROM_CRC_ORDER (R164), with state Done if the last discrepancy is −1 and Running otherwise; and if its CRC fails the
outcome and the state are ChecksumMismatch, cause 3. The spec's defaults are ANY_ZERO and the wire order (log entry 6). -/
def Obligations.FullSearchPassFollowsDiscrepancies : Prop :=
  ∀ (s : State) (pairs : List (Bool × Bool)) (ds : List Bool),
    s.init = true → s.searchState = .running → FixedWidths s.config →
    pairs.length = 64 → (∀ b ∈ pairs, b ≠ (true, true)) →
    s.env = .draws (false :: (pairSamples pairs ++ ds)) →
      ∃ (code : RomCode) (ld : Int),
        (∀ i, i < 64 → code.getLsbD i = directionAt s.lastDiscrepancy s.romAcc pairs i) ∧
        ((ld = -1 ∧ ∀ i, i < 64 → ¬RecordsZero s.config.zeroRule s.lastDiscrepancy s.romAcc pairs i) ∨
          ∃ j : Nat, ld = j ∧ j < 64 ∧ RecordsZero s.config.zeroRule s.lastDiscrepancy s.romAcc pairs j ∧
            ∀ i, j < i → i < 64 → ¬RecordsZero s.config.zeroRule s.lastDiscrepancy s.romAcc pairs i) ∧
        exec .searchStep s =
          .next { s with
            searchState :=
              if romCrc s.config code = romByte code 7 then
                (if ld = -1 then .done else .running)
              else .checksumMismatch
            err :=
              if romCrc s.config code = romByte code 7 then .none else .checksumMismatch
            lastDiscrepancy := ld
            romAcc := code
            presence := true
            busDrive := .released
            trace := []
            env := .draws ds
            sampleCount := s.sampleCount + 129
            observations :=
              s.observations ++
                [⟨.searchStep,
                  .outcome
                    (if romCrc s.config code = romByte code 7 then .found code
                    else .checksumMismatch),
                  resetTrace s.config false ++ writeByteTrace s.config 0xF0#8 ++
                    positionsTrace s.config s.lastDiscrepancy s.romAcc pairs 64⟩] }

/-- R32: the search state machine moves only by the listed transitions; a refused command moves nothing. -/
def Obligations.SearchStateMovesAsListed : Prop :=
  ∀ (i : Instr) (s t : State), exec i s = .next t →
    (Accepted i s → SearchTransition i s.searchState t.searchState) ∧
    (¬Accepted i s → t.searchState = s.searchState)

/-- R24, R25, R354: only INIT, START_SEARCH and SEARCH_STEP write the search cursor and the search state, so no
raw or session command between two search steps changes what the next one starts from. -/
def Obligations.OtherCommandsKeepCursor : Prop :=
  ∀ (i : Instr) (s t : State), exec i s = .next t → i ≠ .init → i ≠ .startSearch → i ≠ .searchStep →
    t.searchState = s.searchState ∧ t.lastDiscrepancy = s.lastDiscrepancy ∧ t.romAcc = s.romAcc

/-- R181 on the reference bus with any one device whose code passes its check: the first step finds the code and
leaves Done; the next returns Done. The timing implementation keeps its budget (U1, log entry 11). -/
def Obligations.OneDeviceIsDiscovered : Prop :=
  ∀ (s : State) (d : Device), s.init = true → s.searchState = .running → s.lastDiscrepancy = -1 →
    s.env = .reference [d] → FixedWidths s.config → OnTime s → romOk s.config d.rom = true →
      (searchSteps 2 s).1 = [.outcome (.found d.rom), .outcome .done] ∧
      (searchSteps 2 s).2.searchState = .done ∧ (searchSteps 2 s).2.lastDiscrepancy = -1

/-- R197, which the spec marks as its own inference (derived from R186 to R195): on the reference bus, with N ≥ 1
devices whose codes are distinct and pass their checks, START_SEARCH and N + 1 SEARCH_STEPs return every code exactly
once, in wire-bit order, and then Done; and so does every SEARCH_STEP after that. It holds under ANY_ZERO, the default
(R190, log entry 6), and while the timing implementation keeps its budget (U1, log entry 11). -/
def Obligations.SearchEnumeratesEveryDevice : Prop :=
  ∀ (s t : State) (devices : List Device),
    s.init = true → s.env = .reference devices → devices ≠ [] →
    (devices.map (·.rom)).Nodup → (∀ d ∈ devices, romOk s.config d.rom = true) →
    FixedWidths s.config → s.config.zeroRule = .anyZero → OnTime s →
    exec .startSearch s = .next t →
      ∃ codes : List RomCode,
        codes.Perm (devices.map (·.rom)) ∧ codes.Pairwise WireBefore ∧
        ∀ k : Nat,
          (searchSteps (devices.length + 1 + k) t).1 =
            codes.map (fun c => .outcome (.found c)) ++ List.replicate (k + 1) (.outcome .done)

/-! ### Device session (44_device_session.md) -/

/-- R220, R221: MATCH_ROM sends a reset slot, 0x55 and the eight address bytes in wire order, tests nothing, and
of `S` writes only the presence bit. -/
def Obligations.MatchRomSendsAddress : Prop :=
  (∀ (rom : RomCode) (s : State), s.init = true → ∃ v env,
    exec (.matchRom rom) s =
      .next { s with
        presence := !v
        busDrive := .released
        trace := []
        env := env
        sampleCount := s.sampleCount + 1
        observations :=
          s.observations ++
            [⟨.matchRom rom, .unit,
              resetTrace s.config v ++
                writeBytesTrace s.config
                  (0x55#8 :: (List.range 8).map fun j => rom.extractLsb' (8 * j) 8)⟩] } ∧
    ∀ b ds, s.env = .draws (b :: ds) → v = b ∧ env = .draws ds) ∧
  ∀ (rom : RomCode) (s : State), s.init = false →
    exec (.matchRom rom) s = .next { s with marks := s.marks ++ [.notInitialised] }

/-- R225: REQUEST_CONVERSION is the match transaction and then 0x44; of `S` it writes only the presence bit. -/
def Obligations.RequestConversionSendsConvertT : Prop :=
  (∀ (rom : RomCode) (s : State), s.init = true → ∃ v env,
    exec (.requestConversion rom) s =
      .next { s with
        presence := !v
        busDrive := .released
        trace := []
        env := env
        sampleCount := s.sampleCount + 1
        observations :=
          s.observations ++
            [⟨.requestConversion rom, .unit, matchTrace s.config rom v ++ writeByteTrace s.config 0x44#8⟩] } ∧
    ∀ b ds, s.env = .draws (b :: ds) → v = b ∧ env = .draws ds) ∧
  ∀ (rom : RomCode) (s : State), s.init = false →
    exec (.requestConversion rom) s = .next { s with marks := s.marks ++ [.notInitialised] }

/-- R228: POLL_CONVERSION_DONE is one read slot; it returns whether the bit was 1; its operand changes nothing
but the record of the command; nothing of `S` is left changed. On an empty bus the bit is 1 while the timing
implementation keeps its budget (U1, log entry 11). -/
def Obligations.PollReadsOneBit : Prop :=
  (∀ s : State, s.init = true → ∃ v env,
    (∀ rom : RomCode,
      exec (.pollConversionDone rom) s =
        .next { s with
          busDrive := .released
          trace := []
          env := env
          sampleCount := s.sampleCount + 1
          observations :=
            s.observations ++
              [⟨.pollConversionDone rom, .bool v, readBitTrace s.config v⟩] }) ∧
    (∀ b ds, s.env = .draws (b :: ds) → v = b ∧ env = .draws ds) ∧
    (OnTime s → s.env = .reference [] → v = true ∧ env = .reference [])) ∧
  ∀ (rom : RomCode) (s : State), s.init = false →
    exec (.pollConversionDone rom) s = .next { s with marks := s.marks ++ [.notInitialised] }

/-- R230, R231: READ_SCRATCHPAD reads nine bytes after the match and 0xBE; it returns the frame with cause NONE if
its ninth byte is the CRC of the first eight, and otherwise ChecksumError with cause 3 and no byte of the frame. -/
def Obligations.ReadScratchpadChecksFrame : Prop :=
  (∀ (rom : RomCode) (s : State), s.init = true → FixedWidths s.config →
    ∃ (v : Bool) (f : Scratchpad) (env : Env),
    exec (.readScratchpad rom) s =
      .next { s with
        presence := !v
        err := if crc8 s.config (padLeading f) = f.crc then .none else .checksumMismatch
        busDrive := .released
        trace := []
        env := env
        sampleCount := s.sampleCount + 73
        observations :=
          s.observations ++
            [⟨.readScratchpad rom,
              .pad (if crc8 s.config (padLeading f) = f.crc then .ok f else .checksumError),
              readPadTrace s.config rom v f⟩] } ∧
    ∀ b g ds, s.env = .draws (b :: ((padBytes g).flatMap byteBits ++ ds)) → v = b ∧ f = g ∧ env = .draws ds) ∧
  ∀ (rom : RomCode) (s : State), s.init = false →
    exec (.readScratchpad rom) s = .next { s with marks := s.marks ++ [.notInitialised] }

/-- R235, R261: READ_TEMPERATURE is the same read; it returns bytes 1 and 0 of a good frame as they came, and
ChecksumError, never a temperature, for a bad one. -/
def Obligations.ReadTemperatureReturnsRaw : Prop :=
  (∀ (rom : RomCode) (s : State), s.init = true → FixedWidths s.config →
    ∃ (v : Bool) (f : Scratchpad) (env : Env),
    exec (.readTemperature rom) s =
      .next { s with
        presence := !v
        err := if crc8 s.config (padLeading f) = f.crc then .none else .checksumMismatch
        busDrive := .released
        trace := []
        env := env
        sampleCount := s.sampleCount + 73
        observations :=
          s.observations ++
            [⟨.readTemperature rom,
              .temp (if crc8 s.config (padLeading f) = f.crc then .ok (f.tmsb ++ f.tlsb) else .checksumError),
              readPadTrace s.config rom v f⟩] } ∧
    ∀ b g ds, s.env = .draws (b :: ((padBytes g).flatMap byteBits ++ ds)) → v = b ∧ f = g ∧ env = .draws ds) ∧
  ∀ (rom : RomCode) (s : State), s.init = false →
    exec (.readTemperature rom) s = .next { s with marks := s.marks ++ [.notInitialised] }

/-- R245, R246, R264, R266: SET_RESOLUTION reads the frame; if its CRC fails it returns false with cause 3 and sends
nothing more; if it holds, it sends the match, 0x4E and the three bytes TH, TL as read and the configuration byte of the
resolution, in the order WS_ORDER says, and returns true with cause NONE. At R9's values the order is TH, TL, CFG and
the configuration bytes are those of R264 (log entry 6). -/
def Obligations.SetResolutionWritesOrFailsClosed : Prop :=
  (∀ (rom : RomCode) (res : Resolution) (s : State), s.init = true → FixedWidths s.config →
    ∃ (v w : Bool) (f : Scratchpad) (env : Env),
      (crc8 s.config (padLeading f) = f.crc →
        exec (.setResolution rom res) s =
          .next { s with
            presence := !w
            err := .none
            busDrive := .released
            trace := []
            env := env
            sampleCount := s.sampleCount + 74
            observations :=
              s.observations ++
                [⟨.setResolution rom res, .bool true,
                  readPadTrace s.config rom v f ++ matchTrace s.config rom w ++
                    writeBytesTrace s.config
                      (match s.config.wsOrder with
                      | .thTlCfg => [0x4E#8, f.th, f.tl, cfgByte s.config res]
                      | .cfgTlTh => [0x4E#8, cfgByte s.config res, f.tl, f.th])⟩] }) ∧
      (crc8 s.config (padLeading f) ≠ f.crc →
        exec (.setResolution rom res) s =
          .next { s with
            presence := !v
            err := .checksumMismatch
            busDrive := .released
            trace := []
            env := env
            sampleCount := s.sampleCount + 73
            observations :=
              s.observations ++ [⟨.setResolution rom res, .bool false, readPadTrace s.config rom v f⟩] }) ∧
      ∀ b g c ds, s.env = .draws (b :: ((padBytes g).flatMap byteBits ++ c :: ds)) →
        v = b ∧ w = c ∧ f = g ∧
        env = .draws (if crc8 s.config (padLeading f) = f.crc then ds else c :: ds)) ∧
  params.wsOrder = .thTlCfg ∧
  (∀ res, cfgByte params res =
    match res with
    | .r9 => 0x1F#8
    | .r10 => 0x3F#8
    | .r11 => 0x5F#8
    | .r12 => 0x7F#8) ∧
  ∀ (rom : RomCode) (res : Resolution) (s : State), s.init = false →
    exec (.setResolution rom res) s = .next { s with marks := s.marks ++ [.notInitialised] }

/-- R248, which the spec marks as its own inference (derived from R230, R245 and R65), on the reference bus: after
SET_RESOLUTION of a device whose scratchpad passes its check, the next READ_SCRATCHPAD returns the new configuration
byte, every other byte but the CRC unchanged, and a good CRC. It holds under the default WS_ORDER, which is the order
the reference devices take the bytes in (R65, log entry 6), and while the timing implementation keeps its budget (U1,
log entry 11). -/
def Obligations.ResolutionReadsBack : Prop :=
  ∀ (s : State) (devices : List Device) (d : Device) (res : Resolution),
    s.init = true → s.env = .reference devices → (devices.map (·.rom)).Nodup → d ∈ devices →
    padOk s.config d.pad = true → FixedWidths s.config → s.config.wsOrder = .thTlCfg → OnTime s →
      ∃ t u tr tr' f,
        exec (.setResolution d.rom res) s = .next t ∧
        t.observations = s.observations ++ [⟨.setResolution d.rom res, .bool true, tr⟩] ∧
        exec (.readScratchpad d.rom) t = .next u ∧
        u.observations = t.observations ++ [⟨.readScratchpad d.rom, .pad (.ok f), tr'⟩] ∧
        f.cfg = cfgByte s.config res ∧ f.th = d.pad.th ∧ f.tl = d.pad.tl ∧ f.tlsb = d.pad.tlsb ∧
        f.tmsb = d.pad.tmsb ∧ f.rsv0 = d.pad.rsv0 ∧ f.rsv1 = d.pad.rsv1 ∧ f.rsv2 = d.pad.rsv2 ∧
        f.crc = crc8 s.config (padLeading f)

/-- R66: on a reference bus with no device there is no presence and every read slot reads 1, so RESET returns
false, READBIT 1, READBYTE 0xFF, and a scratchpad read fails its check (R166). The parameters have R9's values, and the
timing implementation keeps its budget (U1, log entry 11). -/
def Obligations.EmptyBusReadsOnes : Prop :=
  ∀ s : State, s.init = true → s.env = .reference [] → s.config = params → OnTime s →
    (∃ t tr, exec .reset s = .next t ∧ t.presence = false ∧
      t.observations = s.observations ++ [⟨.reset, .bool false, tr⟩]) ∧
    (∃ t tr, exec .readBit s = .next t ∧ t.observations = s.observations ++ [⟨.readBit, .bit true, tr⟩]) ∧
    (∃ t tr, exec .readByte s = .next t ∧
      t.observations = s.observations ++ [⟨.readByte, .byte 0xFF#8, tr⟩]) ∧
    ∀ rom : RomCode, ∃ t tr, exec (.readScratchpad rom) s = .next t ∧ t.err = .checksumMismatch ∧
      t.observations = s.observations ++ [⟨.readScratchpad rom, .pad .checksumError, tr⟩]

/-! ### Codec and formatting (45_scratchpad_codec.md) -/

/-- R267, R268: FORMAT_TEMPERATURE returns the text of its operand and touches neither the bus nor `S`. -/
def Obligations.FormatCommandReturnsText : Prop :=
  (∀ t16 : Temperature, decode (.command [0x60#8, t16.extractLsb' 0 8, t16.extractLsb' 8 8]) =
    .ok (.formatTemperature t16)) ∧
  (∀ (t16 : Temperature) (s : State), s.init = true →
    exec (.formatTemperature t16) s =
      .next { s with
        trace := []
        observations := s.observations ++ [⟨.formatTemperature t16, .text (formatTemperature t16), []⟩] }) ∧
  ∀ (t16 : Temperature) (s : State), s.init = false →
    exec (.formatTemperature t16) s = .next { s with marks := s.marks ++ [.notInitialised] }

/-- R267: the text is the magnitude form, for every raw value. -/
def Obligations.TextIsMagnitudeForm : Prop :=
  ∀ raw : Temperature,
    formatTemperature raw =
      (if raw.toInt < 0 then [0x2D#8] else []) ++ decimal (raw.toInt.natAbs / 16) ++
        (if raw.toInt.natAbs % 16 = 0 then []
        else 0x2E#8 :: trimZeros (fourDigits (625 * (raw.toInt.natAbs % 16))))

/-- R262, R269: the text is an optional minus sign, a whole part without a leading zero, and, only if the
fraction is not zero, a point and a fraction of at most four digits that does not end in zero; the sign is there
exactly for a negative value; the text is never "-0" and at most ten characters long; and the number it writes is
`sint16(raw) / 16`. -/
def Obligations.TextDenotesTemperature : Prop :=
  ∀ raw : Temperature, ∃ (whole frac : List Byte),
    formatTemperature raw =
      (if raw.toInt < 0 then [0x2D#8] else []) ++ whole ++ (if frac = [] then [] else 0x2E#8 :: frac) ∧
    whole ≠ [] ∧ (∀ d ∈ whole, IsDigit d) ∧ (whole = [0x30#8] ∨ whole.head? ≠ some 0x30#8) ∧
    (∀ d ∈ frac, IsDigit d) ∧ frac.length ≤ 4 ∧ frac.getLast? ≠ some 0x30#8 ∧
    formatTemperature raw ≠ [0x2D#8, 0x30#8] ∧ (formatTemperature raw).length ≤ 10 ∧
    16 * (digitsValue whole * 10000 + digitsValue frac * 10 ^ (4 - frac.length)) = raw.toInt.natAbs * 10000

/-- R264, R265: the four configuration bytes, and their decoding by an exact match. -/
def Obligations.ConfigurationBytesDecode : Prop :=
  cfgByte params .r9 = 0x1F#8 ∧ cfgByte params .r10 = 0x3F#8 ∧ cfgByte params .r11 = 0x5F#8 ∧
  cfgByte params .r12 = 0x7F#8 ∧
  ∀ (cfg : Byte) (res : Resolution), decodeResolution params cfg = some res ↔ cfg = cfgByte params res

/-- R82, R83, R88, R90: the result frames. -/
def Obligations.ResultFramesAsTabled : Prop :=
  encodeResult .unit = [0x00#8] ∧
  (∀ b, encodeResult (.bit b) = [0x00#8, if b then 0x01#8 else 0x00#8]) ∧
  (∀ v, encodeResult (.byte v) = [0x00#8, v]) ∧
  (∀ code, encodeResult (.outcome (.found code)) = 0x00#8 :: romBytes code) ∧
  encodeResult (.outcome .done) = [0x01#8] ∧ encodeResult (.outcome .noDevicePresent) = [0x02#8] ∧
  encodeResult (.outcome .checksumMismatch) = [0x03#8] ∧
  (∀ f, encodeResult (.pad (.ok f)) = 0x00#8 :: padBytes f) ∧ encodeResult (.pad .checksumError) = [0x01#8] ∧
  (∀ raw, encodeResult (.temp (.ok raw)) = [0x00#8, raw.extractLsb' 0 8, raw.extractLsb' 8 8]) ∧
  encodeResult (.temp .checksumError) = [0x01#8] ∧
  (∀ b, encodeResult (.bool b) = [0x00#8, if b then 0x01#8 else 0x00#8]) ∧
  (∀ w, encodeResult (.status w) = [0x00#8, w.extractLsb' 0 8, w.extractLsb' 8 8]) ∧
  ∀ ascii, encodeResult (.text ascii) = 0x00#8 :: BitVec.ofNat 8 ascii.length :: ascii

/-! ### Wire command bytes (30_encoding.md R85) -/

/-- R85, R140: each wire command byte goes out as eight write slots, LSB first, and nothing of `S` is left
changed. That it can stand alone before the core is the model's own choice (log entry 3). -/
def Obligations.WireBytesGoOutLsbFirst : Prop :=
  ∀ (s : State), s.init = true → ∀ c ∈ [(Instr.wireSearchRom, 0xF0#8), (.wireMatchRom, 0x55#8),
      (.wireConvertT, 0x44#8), (.wireReadScratchpad, 0xBE#8), (.wireWriteScratchpad, 0x4E#8)],
    decode (.wire c.2) = .ok c.1 ∧ ∃ env,
      exec c.1 s =
        .next { s with
          busDrive := .released
          trace := []
          env := env
          observations := s.observations ++ [⟨c.1, .unit, writeByteTrace s.config c.2⟩] } ∧
      ∀ ds, s.env = .draws ds → env = .draws ds

/-! ### The whole machine -/

/-- R35, R16, R10, R29, R61: from every state that meets the invariant, a step gives a state that meets it. -/
def Obligations.StepKeepsInvariant : Prop :=
  ∀ s t : State, Inv s → step s = .next t → Inv t

/-- R35, R340, R61: the power-on state meets the invariant, in the free-draw environment and with any devices of the
reference environment at their power-up, whose ROM codes have a valid CRC. -/
def Obligations.PowerOnMeetsInvariant : Prop :=
  Inv State.reset ∧
  ∀ devices : List Device,
    (∀ d ∈ devices, ∃ family serial pad tempNext convPolls,
      d = powerUpDevice params family serial pad tempNext convPolls) →
    Inv { State.reset with env := .reference devices }

/-- R27, R300: of the commands other than INIT, `S.err` is written only by SEARCH_STEP on a non-terminal entry and by the
three commands that read a scratchpad; a search step writes 0 to 3, a scratchpad read 0 or 3; no command writes code 4.
R27 does not list INIT and says that every other command leaves `S.err`; that INIT is a writer too is the model's own
reading (DEDUCED, log entry 16) of R343: "State written: every field of `S`". -/
def Obligations.OnlyFallibleCommandsWriteErr : Prop :=
  ∀ (i : Instr) (s t : State), exec i s = .next t →
    (t.err ≠ s.err →
      i = .init ∨ (i = .searchStep ∧ s.searchState = .running) ∨ (∃ rom, i = .readScratchpad rom) ∨
        (∃ rom, i = .readTemperature rom) ∨ ∃ rom res, i = .setResolution rom res) ∧
    (t.err = .searchOverflow → s.err = .searchOverflow) ∧
    (t.err = .noDevicePresent ∨ t.err = .noDeviceResponse → t.err ≠ s.err → i = .searchStep)

/-- R26, R116: of the commands other than INIT, `S.presence` is written only by those that make a reset slot. R26 does not
name INIT; that INIT is a writer too is the model's own reading (DEDUCED, log entry 16) of R343: "State written: every
field of `S`". -/
def Obligations.OnlyResetSlotsWritePresence : Prop :=
  ∀ (i : Instr) (s t : State), exec i s = .next t → t.presence ≠ s.presence →
    i = .init ∨ i = .reset ∨ (i = .searchStep ∧ s.searchState = .running) ∨ (∃ rom, i = .matchRom rom) ∨
      (∃ rom, i = .requestConversion rom) ∨ (∃ rom, i = .readScratchpad rom) ∨
      (∃ rom, i = .readTemperature rom) ∨ ∃ rom res, i = .setResolution rom res

/-- R111, R118: in every trace that a command leaves, each sample is taken with the line released, and the trace
ends with the line released. -/
def Obligations.SamplesAreTakenReleased : Prop :=
  ∀ (i : Instr) (s t : State) (o : Observation), exec i s = .next t → t.observations = s.observations ++ [o] →
    samplesReleased .released o.trace = true ∧ driveAfter .released o.trace = .released

/-- R249, R360: the modelled time of each command at R9's delays, in microseconds, as the sum of its waits. R360's table
has no row for the five wire rows: that they stand alone as commands, and so take the time of their eight slots, is the
model's own choice (DESIGN CHOICE, log entry 3). -/
def Obligations.CommandTimesAsTabled : Prop :=
  ∀ (i : Instr) (s t : State) (r : Result) (tr : List BusEvent),
    s.config = params → exec i s = .next t → t.observations = s.observations ++ [⟨i, r, tr⟩] →
    match i with
    | .init | .readStatus | .crc8 _ | .startSearch | .formatTemperature _ => traceTime tr = 0
    | .write1 | .write0 | .readBit | .pollConversionDone _ => traceTime tr = 70
    | .reset => traceTime tr = 960
    | .writeByte _ | .readByte => traceTime tr = 560
    | .searchStep =>
      (s.searchState ≠ .running ∧ traceTime tr = 0) ∨
      (s.searchState = .running ∧ t.err = .noDevicePresent ∧ traceTime tr = 960) ∨
      (s.searchState = .running ∧ t.err = .noDeviceResponse ∧
        ∃ k, k < 64 ∧ traceTime tr = 960 + 70 * (10 + 3 * k)) ∨
      (s.searchState = .running ∧ (t.err = .none ∨ t.err = .checksumMismatch) ∧ traceTime tr = 14960)
    | .matchRom _ => traceTime tr = 6000
    | .requestConversion _ => traceTime tr = 6560
    | .readScratchpad _ | .readTemperature _ => traceTime tr = 11600
    | .setResolution _ _ => (r = .bool true ∧ traceTime tr = 19840) ∨ (r = .bool false ∧ traceTime tr = 11600)
    | .wireSearchRom | .wireMatchRom | .wireConvertT | .wireReadScratchpad | .wireWriteScratchpad =>
      traceTime tr = 560

/-- R362: every command ends after a bounded number of slots: at most 1 reset and 200 bit slots for a search step, at
most 2 resets and 256 bit slots for any other command. Reset slots are told apart by their wait of 480 microseconds. -/
def Obligations.SlotsPerCommandAreBounded : Prop :=
  ∀ (i : Instr) (s t : State) (o : Observation),
    s.config = params → exec i s = .next t → t.observations = s.observations ++ [o] →
    (i = .searchStep → resetCount params o.trace ≤ 1 ∧ slotCount o.trace ≤ resetCount params o.trace + 200) ∧
    resetCount params o.trace ≤ 2 ∧ slotCount o.trace ≤ resetCount params o.trace + 256
end

