-- ==== Sys2Proof/Laws/Operands.lean ====
section
/-! SUPPORT. Operand forms taken apart and put together again (R53, R55, R92). -/

namespace Sys2Proof.Machine

/-- A ROM code assembled from its own bytes. -/
theorem romOfBytes_romBytes (rom : RomCode) : romOfBytes (romBytes rom) = rom := by
  apply BitVec.eq_of_toNat_eq
  have := rom.isLt
  simp only [romOfBytes, romBytes, romByte, littleEndian, BitVec.toNat_ofNat, BitVec.extractLsb'_toNat,
    Nat.shiftRight_eq_div_pow]
  omega

/-- The bytes of a ROM code assembled from eight bytes. -/
theorem romBytes_romOfBytes {bs : List Byte} (h : bs.length = 8) : romBytes (romOfBytes bs) = bs := by
  match bs, h with
  | [a, b, c, d, e, f, g, i], _ =>
    have := a.isLt; have := b.isLt; have := c.isLt; have := d.isLt
    have := e.isLt; have := f.isLt; have := g.isLt; have := i.isLt
    simp only [romBytes, List.cons.injEq, and_true]
    refine ⟨?_, ?_, ?_, ?_, ?_, ?_, ?_, ?_⟩ <;>
    · apply BitVec.eq_of_toNat_eq
      simp only [romByte, romOfBytes, littleEndian, BitVec.toNat_ofNat, BitVec.extractLsb'_toNat,
        Nat.shiftRight_eq_div_pow]
      omega

@[simp] theorem romBytes_length (rom : RomCode) : (romBytes rom).length = 8 := rfl

@[simp] theorem wordOfBytes_high_low (w : BitVec 16) : wordOfBytes (highByte w) (lowByte w) = w := by
  apply BitVec.eq_of_toNat_eq
  have := w.isLt
  simp only [wordOfBytes, highByte, lowByte, BitVec.toNat_append, BitVec.extractLsb'_toNat,
    Nat.shiftRight_eq_div_pow, Nat.shiftLeft_eq]
  rw [← Nat.shiftLeft_eq, ← Nat.shiftLeft_add_eq_or_of_lt (by omega), Nat.shiftLeft_eq]
  omega

@[simp] theorem lowByte_wordOfBytes (hi lo : Byte) : lowByte (wordOfBytes hi lo) = lo := by
  apply BitVec.eq_of_toNat_eq
  have := hi.isLt; have := lo.isLt
  simp only [wordOfBytes, lowByte, BitVec.toNat_append, BitVec.extractLsb'_toNat,
    Nat.shiftRight_eq_div_pow]
  rw [← Nat.shiftLeft_add_eq_or_of_lt (by omega), Nat.shiftLeft_eq]
  omega

@[simp] theorem highByte_wordOfBytes (hi lo : Byte) : highByte (wordOfBytes hi lo) = hi := by
  apply BitVec.eq_of_toNat_eq
  have := hi.isLt; have := lo.isLt
  simp only [wordOfBytes, highByte, BitVec.toNat_append, BitVec.extractLsb'_toNat,
    Nat.shiftRight_eq_div_pow]
  rw [← Nat.shiftLeft_add_eq_or_of_lt (by omega), Nat.shiftLeft_eq]
  omega

/-- Reading back a bit after one was written. -/
theorem getLsbD_setBit {w : Nat} (v : BitVec w) (i j : Nat) (b : Bool) (hi : i < w) (hj : j < w) :
    (setBit v i b).getLsbD j = if j = i then b else v.getLsbD j := by
  unfold setBit
  split
  · rename_i hb
    subst hb
    by_cases h : j = i
    · subst h
      simp [hj]
    · simp only [BitVec.getLsbD_or, BitVec.getLsbD_shiftLeft, hj, h, if_false]
      rcases Nat.lt_or_ge j i with h' | h'
      · simp [h']
      · have : j - i ≠ 0 := by omega
        simp [BitVec.getLsbD_one, this]
  · rename_i hb
    rw [Bool.not_eq_true] at hb
    subst hb
    by_cases h : j = i
    · subst h
      simp [hj]
    · simp only [BitVec.getLsbD_and, BitVec.getLsbD_not, BitVec.getLsbD_shiftLeft, hj, h, if_false]
      rcases Nat.lt_or_ge j i with h' | h'
      · simp [h']
      · have : j - i ≠ 0 := by omega
        simp [BitVec.getLsbD_one, this]

end Sys2Proof.Machine
end

