-- ==== Sys2Proof/Laws/Decode.lean ====
section
/-! SUPPORT. The tables of the encoding read both ways, and what the decoder does once the opcode is known. -/

namespace Sys2Proof

@[simp] theorem lookupOpcode_opcodeByte (op : Opcode) : lookupOpcode (opcodeByte op) = some op := by
  cases op <;> rfl

theorem eq_opcodeByte_of_lookup {v : Byte} {op : Opcode} (h : lookupOpcode v = some op) : v = opcodeByte op := by
  revert v
  cases op <;> decide +kernel

@[simp] theorem wireCommand_wireByte (c : WireCmd) : wireCommand (wireByte c) = some c := by
  cases c <;> rfl

theorem eq_wireByte_of_command {v : Byte} {c : WireCmd} (h : wireCommand v = some c) : v = wireByte c := by
  revert v
  cases c <;> decide +kernel

@[simp] theorem resolutionOfCode_code (r : Resolution) : resolutionOfCode (resolutionCode r) = some r := by
  cases r <;> rfl

theorem eq_resolutionCode_of_code {v : Byte} {r : Resolution} (h : resolutionOfCode v = some r) :
    v = resolutionCode r := by
  revert v
  cases r <;> decide +kernel

/-- A known opcode: the length is checked, then the operands are assembled (R309). -/
theorem decode_opcode (op : Opcode) (operands : List Byte) :
    decode (.command (opcodeByte op :: operands)) =
      if operands.length = operandLength (opcodeFormat op) operands then assembleOperands op operands
      else .error .badFrame := by
  simp [decode, decodeCommand]

/-- A known opcode with operand bytes of the right number. -/
theorem decode_opcode_of_length {op : Opcode} {operands : List Byte}
    (h : operands.length = operandLength (opcodeFormat op) operands) :
    decode (.command (opcodeByte op :: operands)) = assembleOperands op operands := by
  rw [decode_opcode, if_pos h]

/-- An unknown opcode is reserved, whatever follows (R93). -/
theorem decode_reserved {v : Byte} (h : lookupOpcode v = none) (operands : List Byte) :
    decode (.command (v :: operands)) = .error .reservedOpcode := by
  simp [decode, decodeCommand, h]

/-- Assembling operands can only fail for a bad operand. -/
theorem assembleOperands_error {op : Opcode} {operands : List Byte} {why : RefuseReason}
    (h : assembleOperands op operands = .error why) : why = .badOperand := by
  cases op <;> simp only [assembleOperands, reduceCtorEq] at h
  split at h <;> simp_all

end Sys2Proof
end

