-- ==== Sys2Proof/Laws/State.lean ====
section
/-! SUPPORT. What each update of the state does to each field: one lemma per field per update, true by rfl. -/

namespace Sys2Proof.Machine

section driveLowFields

variable (s : State)

@[simp] theorem driveLow_init : (driveLow s).init = s.init := rfl
@[simp] theorem driveLow_searchState : (driveLow s).searchState = s.searchState := rfl
@[simp] theorem driveLow_lastDiscrepancy : (driveLow s).lastDiscrepancy = s.lastDiscrepancy := rfl
@[simp] theorem driveLow_romAcc : (driveLow s).romAcc = s.romAcc := rfl
@[simp] theorem driveLow_presence : (driveLow s).presence = s.presence := rfl
@[simp] theorem driveLow_err : (driveLow s).err = s.err := rfl
@[simp] theorem driveLow_busDrive : (driveLow s).busDrive = .low := rfl
@[simp] theorem driveLow_config : (driveLow s).config = s.config := rfl
@[simp] theorem driveLow_injected : (driveLow s).injected = s.injected := rfl
@[simp] theorem driveLow_timing : (driveLow s).timing = s.timing := rfl
@[simp] theorem driveLow_port : (driveLow s).port = s.port := rfl
@[simp] theorem driveLow_trace : (driveLow s).trace = s.trace ++ [.driveLow] := rfl
@[simp] theorem driveLow_observations : (driveLow s).observations = s.observations := rfl
@[simp] theorem driveLow_marks : (driveLow s).marks = s.marks := rfl
@[simp] theorem driveLow_env : (driveLow s).env = s.env := rfl
@[simp] theorem driveLow_sampleCount : (driveLow s).sampleCount = s.sampleCount := rfl

end driveLowFields

section releaseFields

variable (s : State)

@[simp] theorem release_init : (release s).init = s.init := rfl
@[simp] theorem release_searchState : (release s).searchState = s.searchState := rfl
@[simp] theorem release_lastDiscrepancy : (release s).lastDiscrepancy = s.lastDiscrepancy := rfl
@[simp] theorem release_romAcc : (release s).romAcc = s.romAcc := rfl
@[simp] theorem release_presence : (release s).presence = s.presence := rfl
@[simp] theorem release_err : (release s).err = s.err := rfl
@[simp] theorem release_busDrive : (release s).busDrive = .released := rfl
@[simp] theorem release_config : (release s).config = s.config := rfl
@[simp] theorem release_injected : (release s).injected = s.injected := rfl
@[simp] theorem release_timing : (release s).timing = s.timing := rfl
@[simp] theorem release_port : (release s).port = s.port := rfl
@[simp] theorem release_trace : (release s).trace = s.trace ++ [.release] := rfl
@[simp] theorem release_observations : (release s).observations = s.observations := rfl
@[simp] theorem release_marks : (release s).marks = s.marks := rfl
@[simp] theorem release_env : (release s).env = s.env := rfl
@[simp] theorem release_sampleCount : (release s).sampleCount = s.sampleCount := rfl

end releaseFields

section waitFields

variable (t : Nat) (s : State)

@[simp] theorem wait_init : (wait t s).init = s.init := rfl
@[simp] theorem wait_searchState : (wait t s).searchState = s.searchState := rfl
@[simp] theorem wait_lastDiscrepancy : (wait t s).lastDiscrepancy = s.lastDiscrepancy := rfl
@[simp] theorem wait_romAcc : (wait t s).romAcc = s.romAcc := rfl
@[simp] theorem wait_presence : (wait t s).presence = s.presence := rfl
@[simp] theorem wait_err : (wait t s).err = s.err := rfl
@[simp] theorem wait_busDrive : (wait t s).busDrive = s.busDrive := rfl
@[simp] theorem wait_config : (wait t s).config = s.config := rfl
@[simp] theorem wait_injected : (wait t s).injected = s.injected := rfl
@[simp] theorem wait_timing : (wait t s).timing = s.timing := rfl
@[simp] theorem wait_port : (wait t s).port = s.port := rfl
@[simp] theorem wait_trace : (wait t s).trace = s.trace ++ [.wait t] := rfl
@[simp] theorem wait_observations : (wait t s).observations = s.observations := rfl
@[simp] theorem wait_marks : (wait t s).marks = s.marks := rfl
@[simp] theorem wait_env : (wait t s).env = s.env := rfl
@[simp] theorem wait_sampleCount : (wait t s).sampleCount = s.sampleCount := rfl

end waitFields

section sampleFields

variable (p : Params) (slot : Slot) (s : State)

@[simp] theorem sample_init : (sample p slot s).init = s.init := rfl
@[simp] theorem sample_searchState : (sample p slot s).searchState = s.searchState := rfl
@[simp] theorem sample_lastDiscrepancy : (sample p slot s).lastDiscrepancy = s.lastDiscrepancy := rfl
@[simp] theorem sample_romAcc : (sample p slot s).romAcc = s.romAcc := rfl
@[simp] theorem sample_presence : (sample p slot s).presence = s.presence := rfl
@[simp] theorem sample_err : (sample p slot s).err = s.err := rfl
@[simp] theorem sample_busDrive : (sample p slot s).busDrive = s.busDrive := rfl
@[simp] theorem sample_config : (sample p slot s).config = s.config := rfl
@[simp] theorem sample_injected : (sample p slot s).injected = s.injected := rfl
@[simp] theorem sample_timing : (sample p slot s).timing = s.timing := rfl
@[simp] theorem sample_port : (sample p slot s).port = s.port := rfl
@[simp] theorem sample_trace : (sample p slot s).trace = s.trace ++ [.sample (sampleValue p slot s)] := rfl
@[simp] theorem sample_observations : (sample p slot s).observations = s.observations := rfl
@[simp] theorem sample_marks : (sample p slot s).marks = s.marks := rfl
@[simp] theorem sample_env : (sample p slot s).env = envAfterSample s.env := rfl
@[simp] theorem sample_sampleCount : (sample p slot s).sampleCount = s.sampleCount + 1 := rfl

end sampleFields

section devicesSeeFields

variable (p : Params) (slot : Slot) (s : State)

@[simp] theorem devicesSee_init : (devicesSee p slot s).init = s.init := rfl
@[simp] theorem devicesSee_searchState : (devicesSee p slot s).searchState = s.searchState := rfl
@[simp] theorem devicesSee_lastDiscrepancy : (devicesSee p slot s).lastDiscrepancy = s.lastDiscrepancy := rfl
@[simp] theorem devicesSee_romAcc : (devicesSee p slot s).romAcc = s.romAcc := rfl
@[simp] theorem devicesSee_presence : (devicesSee p slot s).presence = s.presence := rfl
@[simp] theorem devicesSee_err : (devicesSee p slot s).err = s.err := rfl
@[simp] theorem devicesSee_busDrive : (devicesSee p slot s).busDrive = s.busDrive := rfl
@[simp] theorem devicesSee_config : (devicesSee p slot s).config = s.config := rfl
@[simp] theorem devicesSee_injected : (devicesSee p slot s).injected = s.injected := rfl
@[simp] theorem devicesSee_timing : (devicesSee p slot s).timing = s.timing := rfl
@[simp] theorem devicesSee_port : (devicesSee p slot s).port = s.port := rfl
@[simp] theorem devicesSee_trace : (devicesSee p slot s).trace = s.trace := rfl
@[simp] theorem devicesSee_observations : (devicesSee p slot s).observations = s.observations := rfl
@[simp] theorem devicesSee_marks : (devicesSee p slot s).marks = s.marks := rfl
@[simp] theorem devicesSee_env : (devicesSee p slot s).env = envAfterSlot p slot s.env := rfl
@[simp] theorem devicesSee_sampleCount : (devicesSee p slot s).sampleCount = s.sampleCount := rfl

end devicesSeeFields

section beginCommandFields

variable (s : State)

@[simp] theorem beginCommand_init : (beginCommand s).init = s.init := rfl
@[simp] theorem beginCommand_searchState : (beginCommand s).searchState = s.searchState := rfl
@[simp] theorem beginCommand_lastDiscrepancy : (beginCommand s).lastDiscrepancy = s.lastDiscrepancy := rfl
@[simp] theorem beginCommand_romAcc : (beginCommand s).romAcc = s.romAcc := rfl
@[simp] theorem beginCommand_presence : (beginCommand s).presence = s.presence := rfl
@[simp] theorem beginCommand_err : (beginCommand s).err = s.err := rfl
@[simp] theorem beginCommand_busDrive : (beginCommand s).busDrive = s.busDrive := rfl
@[simp] theorem beginCommand_config : (beginCommand s).config = s.config := rfl
@[simp] theorem beginCommand_injected : (beginCommand s).injected = s.injected := rfl
@[simp] theorem beginCommand_timing : (beginCommand s).timing = s.timing := rfl
@[simp] theorem beginCommand_port : (beginCommand s).port = s.port := rfl
@[simp] theorem beginCommand_trace : (beginCommand s).trace = [] := rfl
@[simp] theorem beginCommand_observations : (beginCommand s).observations = s.observations := rfl
@[simp] theorem beginCommand_marks : (beginCommand s).marks = s.marks := rfl
@[simp] theorem beginCommand_env : (beginCommand s).env = s.env := rfl
@[simp] theorem beginCommand_sampleCount : (beginCommand s).sampleCount = s.sampleCount := rfl

end beginCommandFields

section finishCommandFields

variable (i : Instr) (r : Result) (s : State)

@[simp] theorem finishCommand_init : (finishCommand i r s).init = s.init := rfl
@[simp] theorem finishCommand_searchState : (finishCommand i r s).searchState = s.searchState := rfl
@[simp] theorem finishCommand_lastDiscrepancy : (finishCommand i r s).lastDiscrepancy = s.lastDiscrepancy := rfl
@[simp] theorem finishCommand_romAcc : (finishCommand i r s).romAcc = s.romAcc := rfl
@[simp] theorem finishCommand_presence : (finishCommand i r s).presence = s.presence := rfl
@[simp] theorem finishCommand_err : (finishCommand i r s).err = s.err := rfl
@[simp] theorem finishCommand_busDrive : (finishCommand i r s).busDrive = s.busDrive := rfl
@[simp] theorem finishCommand_config : (finishCommand i r s).config = s.config := rfl
@[simp] theorem finishCommand_injected : (finishCommand i r s).injected = s.injected := rfl
@[simp] theorem finishCommand_timing : (finishCommand i r s).timing = s.timing := rfl
@[simp] theorem finishCommand_port : (finishCommand i r s).port = s.port := rfl
@[simp] theorem finishCommand_trace : (finishCommand i r s).trace = [] := rfl
@[simp] theorem finishCommand_observations : (finishCommand i r s).observations = s.observations ++ [⟨i, r, s.trace⟩] := rfl
@[simp] theorem finishCommand_marks : (finishCommand i r s).marks = s.marks := rfl
@[simp] theorem finishCommand_env : (finishCommand i r s).env = s.env := rfl
@[simp] theorem finishCommand_sampleCount : (finishCommand i r s).sampleCount = s.sampleCount := rfl

end finishCommandFields

section refuseFields

variable (why : RefuseReason) (s : State)

@[simp] theorem refuse_init : (refuse why s).init = s.init := rfl
@[simp] theorem refuse_searchState : (refuse why s).searchState = s.searchState := rfl
@[simp] theorem refuse_lastDiscrepancy : (refuse why s).lastDiscrepancy = s.lastDiscrepancy := rfl
@[simp] theorem refuse_romAcc : (refuse why s).romAcc = s.romAcc := rfl
@[simp] theorem refuse_presence : (refuse why s).presence = s.presence := rfl
@[simp] theorem refuse_err : (refuse why s).err = s.err := rfl
@[simp] theorem refuse_busDrive : (refuse why s).busDrive = s.busDrive := rfl
@[simp] theorem refuse_config : (refuse why s).config = s.config := rfl
@[simp] theorem refuse_injected : (refuse why s).injected = s.injected := rfl
@[simp] theorem refuse_timing : (refuse why s).timing = s.timing := rfl
@[simp] theorem refuse_port : (refuse why s).port = s.port := rfl
@[simp] theorem refuse_trace : (refuse why s).trace = s.trace := rfl
@[simp] theorem refuse_observations : (refuse why s).observations = s.observations := rfl
@[simp] theorem refuse_marks : (refuse why s).marks = s.marks ++ [why] := rfl
@[simp] theorem refuse_env : (refuse why s).env = s.env := rfl
@[simp] theorem refuse_sampleCount : (refuse why s).sampleCount = s.sampleCount := rfl

end refuseFields

section takeFrameFields

variable (rest : List Frame) (s : State)

@[simp] theorem takeFrame_init : (takeFrame rest s).init = s.init := rfl
@[simp] theorem takeFrame_searchState : (takeFrame rest s).searchState = s.searchState := rfl
@[simp] theorem takeFrame_lastDiscrepancy : (takeFrame rest s).lastDiscrepancy = s.lastDiscrepancy := rfl
@[simp] theorem takeFrame_romAcc : (takeFrame rest s).romAcc = s.romAcc := rfl
@[simp] theorem takeFrame_presence : (takeFrame rest s).presence = s.presence := rfl
@[simp] theorem takeFrame_err : (takeFrame rest s).err = s.err := rfl
@[simp] theorem takeFrame_busDrive : (takeFrame rest s).busDrive = s.busDrive := rfl
@[simp] theorem takeFrame_config : (takeFrame rest s).config = s.config := rfl
@[simp] theorem takeFrame_injected : (takeFrame rest s).injected = s.injected := rfl
@[simp] theorem takeFrame_timing : (takeFrame rest s).timing = s.timing := rfl
@[simp] theorem takeFrame_port : (takeFrame rest s).port = rest := rfl
@[simp] theorem takeFrame_trace : (takeFrame rest s).trace = s.trace := rfl
@[simp] theorem takeFrame_observations : (takeFrame rest s).observations = s.observations := rfl
@[simp] theorem takeFrame_marks : (takeFrame rest s).marks = s.marks := rfl
@[simp] theorem takeFrame_env : (takeFrame rest s).env = s.env := rfl
@[simp] theorem takeFrame_sampleCount : (takeFrame rest s).sampleCount = s.sampleCount := rfl

end takeFrameFields

section issueNextFields

variable (f : Frame) (s : State)

@[simp] theorem issueNext_init : (issueNext f s).init = s.init := rfl
@[simp] theorem issueNext_searchState : (issueNext f s).searchState = s.searchState := rfl
@[simp] theorem issueNext_lastDiscrepancy : (issueNext f s).lastDiscrepancy = s.lastDiscrepancy := rfl
@[simp] theorem issueNext_romAcc : (issueNext f s).romAcc = s.romAcc := rfl
@[simp] theorem issueNext_presence : (issueNext f s).presence = s.presence := rfl
@[simp] theorem issueNext_err : (issueNext f s).err = s.err := rfl
@[simp] theorem issueNext_busDrive : (issueNext f s).busDrive = s.busDrive := rfl
@[simp] theorem issueNext_config : (issueNext f s).config = s.config := rfl
@[simp] theorem issueNext_injected : (issueNext f s).injected = s.injected := rfl
@[simp] theorem issueNext_timing : (issueNext f s).timing = s.timing := rfl
@[simp] theorem issueNext_port : (issueNext f s).port = f :: s.port := rfl
@[simp] theorem issueNext_trace : (issueNext f s).trace = s.trace := rfl
@[simp] theorem issueNext_observations : (issueNext f s).observations = s.observations := rfl
@[simp] theorem issueNext_marks : (issueNext f s).marks = s.marks := rfl
@[simp] theorem issueNext_env : (issueNext f s).env = s.env := rfl
@[simp] theorem issueNext_sampleCount : (issueNext f s).sampleCount = s.sampleCount := rfl

end issueNextFields

section issueLastFields

variable (f : Frame) (s : State)

@[simp] theorem issueLast_init : (issueLast f s).init = s.init := rfl
@[simp] theorem issueLast_searchState : (issueLast f s).searchState = s.searchState := rfl
@[simp] theorem issueLast_lastDiscrepancy : (issueLast f s).lastDiscrepancy = s.lastDiscrepancy := rfl
@[simp] theorem issueLast_romAcc : (issueLast f s).romAcc = s.romAcc := rfl
@[simp] theorem issueLast_presence : (issueLast f s).presence = s.presence := rfl
@[simp] theorem issueLast_err : (issueLast f s).err = s.err := rfl
@[simp] theorem issueLast_busDrive : (issueLast f s).busDrive = s.busDrive := rfl
@[simp] theorem issueLast_config : (issueLast f s).config = s.config := rfl
@[simp] theorem issueLast_injected : (issueLast f s).injected = s.injected := rfl
@[simp] theorem issueLast_timing : (issueLast f s).timing = s.timing := rfl
@[simp] theorem issueLast_port : (issueLast f s).port = s.port ++ [f] := rfl
@[simp] theorem issueLast_trace : (issueLast f s).trace = s.trace := rfl
@[simp] theorem issueLast_observations : (issueLast f s).observations = s.observations := rfl
@[simp] theorem issueLast_marks : (issueLast f s).marks = s.marks := rfl
@[simp] theorem issueLast_env : (issueLast f s).env = s.env := rfl
@[simp] theorem issueLast_sampleCount : (issueLast f s).sampleCount = s.sampleCount := rfl

end issueLastFields

section initialiseCoreFields

variable (s : State)

@[simp] theorem initialiseCore_init : (initialiseCore s).init = true := rfl
@[simp] theorem initialiseCore_searchState : (initialiseCore s).searchState = .notStarted := rfl
@[simp] theorem initialiseCore_lastDiscrepancy : (initialiseCore s).lastDiscrepancy = -1 := rfl
@[simp] theorem initialiseCore_romAcc : (initialiseCore s).romAcc = 0#64 := rfl
@[simp] theorem initialiseCore_presence : (initialiseCore s).presence = false := rfl
@[simp] theorem initialiseCore_err : (initialiseCore s).err = .none := rfl
@[simp] theorem initialiseCore_busDrive : (initialiseCore s).busDrive = .released := rfl
@[simp] theorem initialiseCore_config : (initialiseCore s).config = s.config := rfl
@[simp] theorem initialiseCore_injected : (initialiseCore s).injected = s.injected := rfl
@[simp] theorem initialiseCore_timing : (initialiseCore s).timing = s.timing := rfl
@[simp] theorem initialiseCore_port : (initialiseCore s).port = s.port := rfl
@[simp] theorem initialiseCore_trace : (initialiseCore s).trace = s.trace := rfl
@[simp] theorem initialiseCore_observations : (initialiseCore s).observations = s.observations := rfl
@[simp] theorem initialiseCore_marks : (initialiseCore s).marks = s.marks := rfl
@[simp] theorem initialiseCore_env : (initialiseCore s).env = s.env := rfl
@[simp] theorem initialiseCore_sampleCount : (initialiseCore s).sampleCount = s.sampleCount := rfl

end initialiseCoreFields

section bindTimingFields

variable (s : State)

@[simp] theorem bindTiming_init : (bindTiming s).init = s.init := rfl
@[simp] theorem bindTiming_searchState : (bindTiming s).searchState = s.searchState := rfl
@[simp] theorem bindTiming_lastDiscrepancy : (bindTiming s).lastDiscrepancy = s.lastDiscrepancy := rfl
@[simp] theorem bindTiming_romAcc : (bindTiming s).romAcc = s.romAcc := rfl
@[simp] theorem bindTiming_presence : (bindTiming s).presence = s.presence := rfl
@[simp] theorem bindTiming_err : (bindTiming s).err = s.err := rfl
@[simp] theorem bindTiming_busDrive : (bindTiming s).busDrive = s.busDrive := rfl
@[simp] theorem bindTiming_config : (bindTiming s).config = s.config := rfl
@[simp] theorem bindTiming_injected : (bindTiming s).injected = s.injected := rfl
@[simp] theorem bindTiming_timing : (bindTiming s).timing = some s.injected := rfl
@[simp] theorem bindTiming_port : (bindTiming s).port = s.port := rfl
@[simp] theorem bindTiming_trace : (bindTiming s).trace = s.trace := rfl
@[simp] theorem bindTiming_observations : (bindTiming s).observations = s.observations := rfl
@[simp] theorem bindTiming_marks : (bindTiming s).marks = s.marks := rfl
@[simp] theorem bindTiming_env : (bindTiming s).env = s.env := rfl
@[simp] theorem bindTiming_sampleCount : (bindTiming s).sampleCount = s.sampleCount := rfl

end bindTimingFields

section startCursorFields

variable (s : State)

@[simp] theorem startCursor_init : (startCursor s).init = s.init := rfl
@[simp] theorem startCursor_searchState : (startCursor s).searchState = .running := rfl
@[simp] theorem startCursor_lastDiscrepancy : (startCursor s).lastDiscrepancy = -1 := rfl
@[simp] theorem startCursor_romAcc : (startCursor s).romAcc = 0#64 := rfl
@[simp] theorem startCursor_presence : (startCursor s).presence = s.presence := rfl
@[simp] theorem startCursor_err : (startCursor s).err = s.err := rfl
@[simp] theorem startCursor_busDrive : (startCursor s).busDrive = s.busDrive := rfl
@[simp] theorem startCursor_config : (startCursor s).config = s.config := rfl
@[simp] theorem startCursor_injected : (startCursor s).injected = s.injected := rfl
@[simp] theorem startCursor_timing : (startCursor s).timing = s.timing := rfl
@[simp] theorem startCursor_port : (startCursor s).port = s.port := rfl
@[simp] theorem startCursor_trace : (startCursor s).trace = s.trace := rfl
@[simp] theorem startCursor_observations : (startCursor s).observations = s.observations := rfl
@[simp] theorem startCursor_marks : (startCursor s).marks = s.marks := rfl
@[simp] theorem startCursor_env : (startCursor s).env = s.env := rfl
@[simp] theorem startCursor_sampleCount : (startCursor s).sampleCount = s.sampleCount := rfl

end startCursorFields

section setErrFields

variable (cause : ErrCause) (s : State)

@[simp] theorem setErr_init : (setErr cause s).init = s.init := rfl
@[simp] theorem setErr_searchState : (setErr cause s).searchState = s.searchState := rfl
@[simp] theorem setErr_lastDiscrepancy : (setErr cause s).lastDiscrepancy = s.lastDiscrepancy := rfl
@[simp] theorem setErr_romAcc : (setErr cause s).romAcc = s.romAcc := rfl
@[simp] theorem setErr_presence : (setErr cause s).presence = s.presence := rfl
@[simp] theorem setErr_err : (setErr cause s).err = cause := rfl
@[simp] theorem setErr_busDrive : (setErr cause s).busDrive = s.busDrive := rfl
@[simp] theorem setErr_config : (setErr cause s).config = s.config := rfl
@[simp] theorem setErr_injected : (setErr cause s).injected = s.injected := rfl
@[simp] theorem setErr_timing : (setErr cause s).timing = s.timing := rfl
@[simp] theorem setErr_port : (setErr cause s).port = s.port := rfl
@[simp] theorem setErr_trace : (setErr cause s).trace = s.trace := rfl
@[simp] theorem setErr_observations : (setErr cause s).observations = s.observations := rfl
@[simp] theorem setErr_marks : (setErr cause s).marks = s.marks := rfl
@[simp] theorem setErr_env : (setErr cause s).env = s.env := rfl
@[simp] theorem setErr_sampleCount : (setErr cause s).sampleCount = s.sampleCount := rfl

end setErrFields

section endSearchFields

variable (st : SearchState) (cause : ErrCause) (s : State)

@[simp] theorem endSearch_init : (endSearch st cause s).init = s.init := rfl
@[simp] theorem endSearch_searchState : (endSearch st cause s).searchState = st := rfl
@[simp] theorem endSearch_lastDiscrepancy : (endSearch st cause s).lastDiscrepancy = s.lastDiscrepancy := rfl
@[simp] theorem endSearch_romAcc : (endSearch st cause s).romAcc = s.romAcc := rfl
@[simp] theorem endSearch_presence : (endSearch st cause s).presence = s.presence := rfl
@[simp] theorem endSearch_err : (endSearch st cause s).err = cause := rfl
@[simp] theorem endSearch_busDrive : (endSearch st cause s).busDrive = s.busDrive := rfl
@[simp] theorem endSearch_config : (endSearch st cause s).config = s.config := rfl
@[simp] theorem endSearch_injected : (endSearch st cause s).injected = s.injected := rfl
@[simp] theorem endSearch_timing : (endSearch st cause s).timing = s.timing := rfl
@[simp] theorem endSearch_port : (endSearch st cause s).port = s.port := rfl
@[simp] theorem endSearch_trace : (endSearch st cause s).trace = s.trace := rfl
@[simp] theorem endSearch_observations : (endSearch st cause s).observations = s.observations := rfl
@[simp] theorem endSearch_marks : (endSearch st cause s).marks = s.marks := rfl
@[simp] theorem endSearch_env : (endSearch st cause s).env = s.env := rfl
@[simp] theorem endSearch_sampleCount : (endSearch st cause s).sampleCount = s.sampleCount := rfl

end endSearchFields

section closePassFields

variable (lastZero : Int) (s : State)

@[simp] theorem closePass_init : (closePass lastZero s).init = s.init := rfl
@[simp] theorem closePass_searchState : (closePass lastZero s).searchState = if lastZero = -1 then .done else s.searchState := rfl
@[simp] theorem closePass_lastDiscrepancy : (closePass lastZero s).lastDiscrepancy = lastZero := rfl
@[simp] theorem closePass_romAcc : (closePass lastZero s).romAcc = s.romAcc := rfl
@[simp] theorem closePass_presence : (closePass lastZero s).presence = s.presence := rfl
@[simp] theorem closePass_err : (closePass lastZero s).err = s.err := rfl
@[simp] theorem closePass_busDrive : (closePass lastZero s).busDrive = s.busDrive := rfl
@[simp] theorem closePass_config : (closePass lastZero s).config = s.config := rfl
@[simp] theorem closePass_injected : (closePass lastZero s).injected = s.injected := rfl
@[simp] theorem closePass_timing : (closePass lastZero s).timing = s.timing := rfl
@[simp] theorem closePass_port : (closePass lastZero s).port = s.port := rfl
@[simp] theorem closePass_trace : (closePass lastZero s).trace = s.trace := rfl
@[simp] theorem closePass_observations : (closePass lastZero s).observations = s.observations := rfl
@[simp] theorem closePass_marks : (closePass lastZero s).marks = s.marks := rfl
@[simp] theorem closePass_env : (closePass lastZero s).env = s.env := rfl
@[simp] theorem closePass_sampleCount : (closePass lastZero s).sampleCount = s.sampleCount := rfl

end closePassFields

end Sys2Proof.Machine
end

