-- ==== Sys2Proof/Laws/Ops.lean ====
section
/-! SUPPORT. One lemma per shared operation that says all it can do: the slots, the bytes, the transactions, and
the way a command ends. Later proofs cite these and unfold nothing below them. -/

namespace Sys2Proof.Machine

open Sys2Proof.Safety

/-! ### Devices keep their ROM codes -/

/-- The ROM codes on the reference bus; none in the free-draw environment. -/
def envRoms : Env → List RomCode
  | .draws _ => []
  | .reference devices => devices.map (·.rom)

/-- Whether the codes are valid depends only on the codes (R61). -/
theorem envWf_eq (p : Params) (env : Env) : envWf p env = (envRoms env).all (romWf p) := by
  cases env <;> simp [envWf, envRoms, Function.comp_def]

/-- No slot changes a device's ROM code (R62 to R65). -/
@[simp] theorem deviceSlot_rom (p : Params) (slot : Slot) (d : Device) : (deviceSlot p slot d).rom = d.rom := by
  cases slot with
  | reset => rfl
  | write w =>
    simp only [deviceSlot, deviceTakesWrite]
    split <;> first | rfl | (split <;> rfl)
  | read =>
    simp only [deviceSlot, deviceTakesRead]
    split <;> rfl

@[simp] theorem envRoms_envAfterSlot (p : Params) (slot : Slot) (env : Env) :
    envRoms (envAfterSlot p slot env) = envRoms env := by
  cases env <;> simp [envRoms, envAfterSlot]

@[simp] theorem envRoms_envAfterSample (env : Env) : envRoms (envAfterSample env) = envRoms env := by
  cases env <;> rfl

/-! ### Valid ROM codes (R53, R61) -/

/-- Byte 7 of a code put together from its parts. -/
theorem romByte_top (c : Byte) (serial : BitVec 48) (family : Byte) : romByte (c ++ serial ++ family) 7 = c := by
  apply BitVec.eq_of_getLsbD_eq
  intro i hi
  have h1 : ¬ 8 * 7 + i < 8 := by omega
  have h2 : ¬ 8 * 7 + i - 8 < 48 := by omega
  have h3 : 8 * 7 + i - 8 - 48 = i := by omega
  simp only [romByte, BitVec.getLsbD_extractLsb', hi, decide_true, Bool.true_and, BitVec.getLsbD_append, h1, h2, h3,
    if_false]

/-- Bytes 0 to 6 do not depend on the CRC byte. -/
theorem romByte_below (c : Byte) (serial : BitVec 48) (family : Byte) (j : Nat) (hj : j < 7) :
    romByte (c ++ serial ++ family) j = romByte (0#8 ++ serial ++ family) j := by
  apply BitVec.eq_of_getLsbD_eq
  intro i hi
  simp only [romByte, BitVec.getLsbD_extractLsb', hi, decide_true, Bool.true_and, BitVec.getLsbD_append]
  by_cases h1 : 8 * j + i < 8
  · simp [h1]
  · have h2 : 8 * j + i - 8 < 48 := by omega
    simp [h1, h2]

/-- A code made by `validRom` has a valid CRC. -/
theorem romWf_validRom (p : Params) (family : Byte) (serial : BitVec 48) :
    romWf p (validRom p family serial) = true := by
  have h (c : Byte) : (romBytes (c ++ serial ++ family)).take 7 = (romBytes (0#8 ++ serial ++ family)).take 7 := by
    simp only [romBytes, List.take]
    rw [romByte_below c, romByte_below c, romByte_below c, romByte_below c, romByte_below c, romByte_below c,
      romByte_below c] <;> decide
  simp [romWf, crcOk, validRom, romByte_top, h]

/-- A device at power-up has a valid code, and is deselected (R61). -/
@[simp] theorem romWf_powerUpDevice (p : Params) (family : Byte) (serial : BitVec 48) (pad : Scratchpad)
    (tempNext : Temperature) (convPolls : Nat) :
    romWf p (powerUpDevice p family serial pad tempNext convPolls).rom = true :=
  romWf_validRom p family serial

/-! ### Slots -/

/-- The write-1 slot (R113). -/
theorem slotWrite1_eq (p : Params) (s : State) :
    slotWrite1 p s =
      { s with
        busDrive := .released
        trace := s.trace ++ writeBitTrace p true
        env := envAfterSlot p (.write true) s.env } := by
  simp [slotWrite1, writeBitTrace, devicesSee, wait, release, driveLow]

/-- The write-0 slot (R114). -/
theorem slotWrite0_eq (p : Params) (s : State) :
    slotWrite0 p s =
      { s with
        busDrive := .released
        trace := s.trace ++ writeBitTrace p false
        env := envAfterSlot p (.write false) s.env } := by
  simp [slotWrite0, writeBitTrace, devicesSee, wait, release, driveLow]

/-- `write_bit` changes the drive state, the trace and the environment, and nothing else. -/
theorem writeBit_eq (p : Params) (b : Bool) (s : State) :
    writeBit p b s =
      { s with
        busDrive := .released
        trace := s.trace ++ writeBitTrace p b
        env := envAfterSlot p (.write b) s.env } := by
  cases b
  · exact slotWrite0_eq p s
  · exact slotWrite1_eq p s

/-- The bit a read slot reads: the level of the released line (R118). -/
theorem slotRead_fst (p : Params) (s : State) :
    (slotRead p s).1 = lineLevel (keepsBudget p s.timing) s.env .released .read s.sampleCount := rfl

/-- A read slot changes the drive state, the trace, the environment and the sample counter. -/
theorem slotRead_snd (p : Params) (s : State) :
    (slotRead p s).2 =
      { s with
        busDrive := .released
        trace := s.trace ++ readBitTrace p (slotRead p s).1
        env := envAfterSlot p .read (envAfterSample s.env)
        sampleCount := s.sampleCount + 1 } := by
  simp [slotRead, readToSample, readBitTrace, devicesSee, sample, wait, release, driveLow]

/-- The presence bit of a reset slot: the line sampled low (R116, R117). -/
theorem slotReset_fst (p : Params) (s : State) :
    (slotReset p s).1 = !lineLevel (keepsBudget p s.timing) s.env .released .reset s.sampleCount := rfl

/-- A reset slot also writes `S.presence` (R116). -/
theorem slotReset_snd (p : Params) (s : State) :
    (slotReset p s).2 =
      { s with
        presence := (slotReset p s).1
        busDrive := .released
        trace := s.trace ++ resetTrace p (!(slotReset p s).1)
        env := envAfterSlot p .reset (envAfterSample s.env)
        sampleCount := s.sampleCount + 1 } := by
  simp [slotReset, resetToSample, resetTrace, devicesSee, sample, wait, release, driveLow]

/-! ### Bytes -/

/-- The environment after a run of written bits. -/
def envAfterBits (p : Params) (bs : List Bool) (env : Env) : Env :=
  bs.foldl (fun e b => envAfterSlot p (.write b) e) env

@[simp] theorem envAfterBits_nil (p : Params) (env : Env) : envAfterBits p [] env = env := rfl

@[simp] theorem envAfterBits_cons (p : Params) (b : Bool) (bs : List Bool) (env : Env) :
    envAfterBits p (b :: bs) env = envAfterBits p bs (envAfterSlot p (.write b) env) := rfl

theorem envAfterBits_append (p : Params) (as bs : List Bool) (env : Env) :
    envAfterBits p (as ++ bs) env = envAfterBits p bs (envAfterBits p as env) := by
  simp [envAfterBits]

@[simp] theorem envRoms_envAfterBits (p : Params) (bs : List Bool) (env : Env) :
    envRoms (envAfterBits p bs env) = envRoms env := by
  induction bs generalizing env with
  | nil => rfl
  | cons b bs ih => simp [ih]

/-- Written bits do not touch the free-draw environment. -/
@[simp] theorem envAfterBits_draws (p : Params) (bs : List Bool) (ds : List Bool) :
    envAfterBits p bs (.draws ds) = .draws ds := by
  induction bs with
  | nil => rfl
  | cons b bs ih => simpa [envAfterSlot] using ih

/-- A run of written bits ends released unless it is empty. -/
theorem writeBits_eq (p : Params) (bs : List Bool) (s : State) :
    writeBits p bs s =
      { s with
        busDrive := if bs = [] then s.busDrive else .released
        trace := s.trace ++ bs.flatMap (writeBitTrace p)
        env := envAfterBits p bs s.env } := by
  induction bs generalizing s with
  | nil => simp [writeBits]
  | cons b bs ih => simp [writeBits, ih, writeBit_eq]

/-- `write_byte` (R140). -/
theorem writeByte_eq (p : Params) (v : Byte) (s : State) :
    writeByte p v s =
      { s with
        busDrive := .released
        trace := s.trace ++ writeByteTrace p v
        env := envAfterBits p (byteBits v) s.env } := by
  simp [writeByte, writeBits_eq, writeByteTrace, byteBits]

/-- Written bytes, in order. -/
theorem writeBytes_eq (p : Params) (vs : List Byte) (s : State) :
    writeBytes p vs s =
      { s with
        busDrive := if vs = [] then s.busDrive else .released
        trace := s.trace ++ writeBytesTrace p vs
        env := envAfterBits p (vs.flatMap byteBits) s.env } := by
  induction vs generalizing s with
  | nil => simp [writeBytes, writeBytesTrace]
  | cons v vs ih => simp [writeBytes, ih, writeByte_eq, writeBytesTrace, envAfterBits_append]

/-- The bits that `n` read slots read from an environment, the first slot's sample being number `k`; `o` says whether
the timing implementation keeps its budget. -/
def readRun (p : Params) (o : Bool) : Nat → Env → Nat → List Bool
  | 0, _, _ => []
  | n + 1, e, k =>
    lineLevel o e .released .read k :: readRun p o n (envAfterSlot p .read (envAfterSample e)) (k + 1)

/-- The environment after `n` read slots. -/
def envAfterReads (p : Params) : Nat → Env → Env
  | 0, e => e
  | n + 1, e => envAfterReads p n (envAfterSlot p .read (envAfterSample e))

@[simp] theorem envRoms_envAfterReads (p : Params) (n : Nat) (env : Env) :
    envRoms (envAfterReads p n env) = envRoms env := by
  induction n generalizing env with
  | zero => rfl
  | succ n ih => simp [envAfterReads, ih]

@[simp] theorem readRun_length (p : Params) (o : Bool) (n : Nat) (e : Env) (k : Nat) : (readRun p o n e k).length = n := by
  induction n generalizing e k with
  | zero => rfl
  | succ n ih => simp [readRun, ih]

theorem readRun_add (p : Params) (o : Bool) (m n : Nat) (e : Env) (k : Nat) :
    readRun p o (m + n) e k = readRun p o m e k ++ readRun p o n (envAfterReads p m e) (k + m) := by
  induction m generalizing e k with
  | zero => simp [readRun, envAfterReads]
  | succ m ih =>
    rw [Nat.add_right_comm]
    simp [readRun, envAfterReads, ih, Nat.add_assoc, Nat.add_comm 1 m]

theorem envAfterReads_add (p : Params) (m n : Nat) (e : Env) :
    envAfterReads p (m + n) e = envAfterReads p n (envAfterReads p m e) := by
  induction m generalizing e with
  | zero => simp [envAfterReads]
  | succ m ih =>
    rw [Nat.add_right_comm]
    simp [envAfterReads, ih]

/-- Fixed draws are read in order. -/
theorem readRun_draws (p : Params) (o : Bool) (bs ds : List Bool) (k : Nat) :
    readRun p o bs.length (.draws (bs ++ ds)) k = bs := by
  induction bs generalizing k with
  | nil => rfl
  | cons b bs ih => simp [readRun, lineLevel, envAfterSample, envAfterSlot, ih]

theorem envAfterReads_draws (p : Params) (bs ds : List Bool) :
    envAfterReads p bs.length (.draws (bs ++ ds)) = .draws ds := by
  induction bs with
  | nil => rfl
  | cons b bs ih => simp [envAfterReads, envAfterSample, envAfterSlot, ih]

/-- The loop of `read_byte` (R142): the register takes the bits in order. -/
theorem readBits_eq (p : Params) (n : Nat) (sh : Byte) (s : State) :
    readBits p n sh s =
      ((readRun p (keepsBudget p s.timing) n s.env s.sampleCount).foldl shiftIn sh,
        { s with
          busDrive := if n = 0 then s.busDrive else .released
          trace := s.trace ++ (readRun p (keepsBudget p s.timing) n s.env s.sampleCount).flatMap (readBitTrace p)
          env := envAfterReads p n s.env
          sampleCount := s.sampleCount + n }) := by
  induction n generalizing sh s with
  | zero => simp [readBits, readRun, envAfterReads]
  | succ n ih =>
    simp [readBits, ih, slotRead_snd, slotRead_fst, readRun, envAfterReads, Nat.add_assoc, Nat.add_comm 1 n]

/-- Eight bits shifted in stand in the register in order: bit `k` is the `k`-th (R142). -/
theorem byteBits_shiftIn (b0 b1 b2 b3 b4 b5 b6 b7 : Bool) :
    byteBits ([b0, b1, b2, b3, b4, b5, b6, b7].foldl shiftIn 0x00#8) = [b0, b1, b2, b3, b4, b5, b6, b7] := by
  revert b0 b1 b2 b3 b4 b5 b6 b7
  decide

/-- The byte whose bits are the eight of a list. -/
def byteOfBits (bs : List Bool) : Byte := bs.foldl shiftIn 0x00#8

theorem byteBits_byteOfBits {bs : List Bool} (h : bs.length = 8) : byteBits (byteOfBits bs) = bs := by
  match bs, h with
  | [b0, b1, b2, b3, b4, b5, b6, b7], _ => exact byteBits_shiftIn b0 b1 b2 b3 b4 b5 b6 b7

theorem byteBits_injective {v w : Byte} (h : byteBits v = byteBits w) : v = w := by
  simp only [byteBits, List.cons.injEq, and_true] at h
  obtain ⟨h0, h1, h2, h3, h4, h5, h6, h7⟩ := h
  apply BitVec.eq_of_getLsbD_eq
  intro i hi
  match i, hi with
  | 0, _ => exact h0
  | 1, _ => exact h1
  | 2, _ => exact h2
  | 3, _ => exact h3
  | 4, _ => exact h4
  | 5, _ => exact h5
  | 6, _ => exact h6
  | 7, _ => exact h7

theorem byteOfBits_byteBits (v : Byte) : byteOfBits (byteBits v) = v :=
  byteBits_injective (byteBits_byteOfBits rfl)

/-- `read_byte` (R142): the byte of the eight bits read. -/
theorem readByte_eq (p : Params) (s : State) :
    readByte p s =
      (byteOfBits (readRun p (keepsBudget p s.timing) 8 s.env s.sampleCount),
        { s with
          busDrive := .released
          trace := s.trace ++ readByteTrace p (byteOfBits (readRun p (keepsBudget p s.timing) 8 s.env s.sampleCount))
          env := envAfterReads p 8 s.env
          sampleCount := s.sampleCount + 8 }) := by
  simp [readByte, readBits_eq, readByteTrace, byteBits_byteOfBits (readRun_length ..)]
  rfl

/-- The bytes of `n` times eight bits read. -/
def readByteRun (p : Params) (o : Bool) : Nat → Env → Nat → List Byte
  | 0, _, _ => []
  | n + 1, e, k => byteOfBits (readRun p o 8 e k) :: readByteRun p o n (envAfterReads p 8 e) (k + 8)

@[simp] theorem readByteRun_length (p : Params) (o : Bool) (n : Nat) (e : Env) (k : Nat) :
    (readByteRun p o n e k).length = n := by
  induction n generalizing e k with
  | zero => rfl
  | succ n ih => simp [readByteRun, ih]

/-- Bytes read, in order. -/
theorem readBytes_eq (p : Params) (n : Nat) (s : State) :
    readBytes p n s =
      (readByteRun p (keepsBudget p s.timing) n s.env s.sampleCount,
        { s with
          busDrive := if n = 0 then s.busDrive else .released
          trace := s.trace ++ (readByteRun p (keepsBudget p s.timing) n s.env s.sampleCount).flatMap (readByteTrace p)
          env := envAfterReads p (8 * n) s.env
          sampleCount := s.sampleCount + 8 * n }) := by
  induction n generalizing s with
  | zero => simp [readBytes, readByteRun, envAfterReads]
  | succ n ih =>
    simp only [readBytes, ih, readByte_eq, readByteRun, Nat.mul_succ, Nat.add_comm (8 * n) 8, envAfterReads_add]
    simp [Nat.add_assoc]

/-- Fixed draws that spell bytes are read as those bytes. -/
theorem readByteRun_draws (p : Params) (o : Bool) (vs : List Byte) (ds : List Bool) (k : Nat) :
    readByteRun p o vs.length (.draws (vs.flatMap byteBits ++ ds)) k = vs := by
  induction vs generalizing k with
  | nil => rfl
  | cons v vs ih =>
    have h1 := readRun_draws p o (byteBits v) (vs.flatMap byteBits ++ ds) k
    have h2 := envAfterReads_draws p (byteBits v) (vs.flatMap byteBits ++ ds)
    simp only [show (byteBits v).length = 8 from rfl] at h1 h2
    simp [readByteRun, h1, h2, byteOfBits_byteBits, ih]

/-- `decode_frame` and `padBytes` are inverse on nine bytes (R54, R260). -/
theorem padBytes_decodeFrame {bytes : List Byte} (h : bytes.length = 9) : padBytes (decodeFrame bytes) = bytes := by
  match bytes, h with
  | [_, _, _, _, _, _, _, _, _], _ => rfl

@[simp] theorem decodeFrame_padBytes (f : Scratchpad) : decodeFrame (padBytes f) = f := rfl

/-! ### Transactions -/

/-- The presence bit that a transaction's reset slot finds. -/
def presenceOf (p : Params) (s : State) : Bool :=
  !lineLevel (keepsBudget p s.timing) s.env .released .reset s.sampleCount

/-- The environment after a match transaction. -/
def envAfterMatch (p : Params) (rom : RomCode) (env : Env) : Env :=
  envAfterBits p ((0x55#8 :: romBytes rom).flatMap byteBits) (envAfterSlot p .reset (envAfterSample env))

@[simp] theorem envRoms_envAfterMatch (p : Params) (rom : RomCode) (env : Env) :
    envRoms (envAfterMatch p rom env) = envRoms env := by
  simp [envAfterMatch]

/-- `match_rom` (R220). -/
theorem matchRom_eq (p : Params) (rom : RomCode) (s : State) :
    matchRom p rom s =
      { s with
        presence := presenceOf p s
        busDrive := .released
        trace := s.trace ++ matchTrace p rom (!presenceOf p s)
        env := envAfterMatch p rom s.env
        sampleCount := s.sampleCount + 1 } := by
  simp only [matchRom, sendWire, slotReset_snd, slotReset_fst, writeByte_eq, writeBytes_eq, wireByte, presenceOf,
    envAfterMatch, List.flatMap_cons, envAfterBits_append, matchTrace, writeBytesTrace]
  simp [romBytes]

/-- The bytes that a read transaction receives. -/
def fetchedBytes (p : Params) (rom : RomCode) (s : State) : List Byte :=
  readByteRun p (keepsBudget p s.timing) p.scratchpadBytes
    (envAfterBits p (byteBits 0xBE#8) (envAfterMatch p rom s.env)) (s.sampleCount + 1)

/-- The frame that a read transaction receives. -/
def padOf (p : Params) (rom : RomCode) (s : State) : Scratchpad :=
  decodeFrame (fetchedBytes p rom s)

@[simp] theorem fetchedBytes_length (p : Params) (rom : RomCode) (s : State) :
    (fetchedBytes p rom s).length = p.scratchpadBytes :=
  readByteRun_length ..

/-- At nine bytes the frame is all that is received (R54, R260). -/
theorem padBytes_padOf {p : Params} (h : p.scratchpadBytes = 9) (rom : RomCode) (s : State) :
    padBytes (padOf p rom s) = fetchedBytes p rom s :=
  padBytes_decodeFrame ((fetchedBytes_length p rom s).trans h)

/-- The environment after a read transaction. -/
def envAfterFetch (p : Params) (rom : RomCode) (env : Env) : Env :=
  envAfterReads p (8 * p.scratchpadBytes) (envAfterBits p (byteBits 0xBE#8) (envAfterMatch p rom env))

@[simp] theorem envRoms_envAfterFetch (p : Params) (rom : RomCode) (env : Env) :
    envRoms (envAfterFetch p rom env) = envRoms env := by
  simp [envAfterFetch]

/-- `read_scratchpad` up to its check (R230). -/
theorem fetchScratchpad_eq (p : Params) (rom : RomCode) (s : State) :
    fetchScratchpad p rom s =
      (padOf p rom s,
        { s with
          presence := presenceOf p s
          busDrive := .released
          trace := s.trace ++ readBytesTrace p rom (!presenceOf p s) (fetchedBytes p rom s)
          env := envAfterFetch p rom s.env
          sampleCount := s.sampleCount + (1 + 8 * p.scratchpadBytes) }) := by
  simp only [fetchScratchpad, sendWire, matchRom_eq, writeByte_eq, readBytes_eq, wireByte, padOf, fetchedBytes,
    envAfterFetch, readBytesTrace]
  simp [Nat.add_assoc]

/-- The write transaction (R245). -/
theorem writeScratchpad_eq (p : Params) (rom : RomCode) (f : Scratchpad) (s : State) :
    writeScratchpad p rom f s =
      { s with
        presence := presenceOf p s
        busDrive := .released
        trace := s.trace ++ writePadTrace p rom (!presenceOf p s) (writeFrame p f)
        env := envAfterBits p ((0x4E#8 :: writeFrame p f).flatMap byteBits) (envAfterMatch p rom s.env)
        sampleCount := s.sampleCount + 1 } := by
  simp only [writeScratchpad, sendWire, matchRom_eq, writeByte_eq, writeBytes_eq, wireByte, writePadTrace,
    writeBytesTrace, List.flatMap_cons, envAfterBits_append]
  simp

/-! ### Commands -/

/-- An accepted command answers its result and its trace (R16, R70). -/
theorem command_next {i : Instr} {body : State → Result × State} {s : State} (h : s.init = true) :
    command i body s = .next (finishCommand i (body (beginCommand s)).1 (body (beginCommand s)).2) := by
  simp [command, h]

/-- Before INIT a command leaves its mark and nothing else (R22, R306). -/
theorem command_refused {i : Instr} {body : State → Result × State} {s : State} (h : s.init = false) :
    command i body s = .next (refuse .notInitialised s) := by
  simp [command, h]

/-- Whatever a command answers is one of these two. -/
theorem command_cases {i : Instr} {body : State → Result × State} {s t : State} (h : command i body s = .next t) :
    (s.init = true ∧ t = finishCommand i (body (beginCommand s)).1 (body (beginCommand s)).2) ∨
      (s.init = false ∧ t = refuse .notInitialised s) := by
  cases hi : s.init
  · rw [command_refused hi] at h
    exact .inr ⟨rfl, (Host.Outcome.next.inj h).symm⟩
  · rw [command_next hi] at h
    exact .inl ⟨rfl, (Host.Outcome.next.inj h).symm⟩

end Sys2Proof.Machine
end

