-- ==== Sys2Proof/Laws/Search.lean ====
section
/-! SUPPORT. What the search operations can do (43_rom_search.md R184 to R195). -/

namespace Sys2Proof.Machine

open Sys2Proof.Safety

/-- Positions change the accumulator and what a slot changes, and nothing else. -/
theorem searchPositions_frame (p : Params) (ld : Int) (n i : Nat) (lz : Int) (s : State) :
    (searchPositions p ld n i lz s).2 =
      { s with
        romAcc := (searchPositions p ld n i lz s).2.romAcc
        busDrive := (searchPositions p ld n i lz s).2.busDrive
        trace := (searchPositions p ld n i lz s).2.trace
        env := (searchPositions p ld n i lz s).2.env
        sampleCount := (searchPositions p ld n i lz s).2.sampleCount } := by
  induction n generalizing i lz s with
  | zero => rfl
  | succ n ih =>
    simp only [searchPositions]
    split
    · simp [slotRead_snd]
    · rw [ih]
      simp [writeDirection, writeBit_eq, slotRead_snd]

/-- Positions keep the ROM codes on the bus. -/
theorem searchPositions_envRoms (p : Params) (ld : Int) (n i : Nat) (lz : Int) (s : State) :
    envRoms (searchPositions p ld n i lz s).2.env = envRoms s.env := by
  induction n generalizing i lz s with
  | zero => rfl
  | succ n ih =>
    simp only [searchPositions]
    split
    · simp [slotRead_snd]
    · rw [ih]
      simp [writeDirection, writeBit_eq, slotRead_snd]

/-- Positions end with the line released. -/
theorem searchPositions_released (p : Params) (ld : Int) (n i : Nat) (lz : Int) (s : State)
    (h : s.busDrive = .released) : (searchPositions p ld n i lz s).2.busDrive = .released := by
  induction n generalizing i lz s with
  | zero => exact h
  | succ n ih =>
    simp only [searchPositions]
    split
    · simp [slotRead_snd]
    · exact ih _ _ _ (by simp [writeDirection, writeBit_eq])

/-- The candidate is the one at the start or a position of the run (R190). -/
theorem searchPositions_lastZero (p : Params) (ld : Int) (n i : Nat) (lz : Int) (s : State) {lz' : Int}
    (h : (searchPositions p ld n i lz s).1 = some lz') : lz' = lz ∨ ((i : Int) ≤ lz' ∧ lz' < i + n) := by
  induction n generalizing i lz s with
  | zero =>
    simp only [searchPositions, Option.some.injEq] at h
    exact .inl h.symm
  | succ n ih =>
    simp only [searchPositions] at h
    split at h
    · cases h
    · have hr := ih _ _ _ h
      push_cast at hr ⊢
      unfold nextLastZero at hr
      split at hr
      · split at hr <;> omega
      · omega

/-- All a search pass can do (R184, R187, R193 to R195): no presence; a pair of ones; or all positions, and
then the check. -/
theorem searchPass_cases (p : Params) (s : State) :
    ((slotReset p s).1 = false ∧
      searchPass p s = (.noDevicePresent, endSearch .noDevicePresent .noDevicePresent (slotReset p s).2)) ∨
    (∃ s', (slotReset p s).1 = true ∧
      searchPositions p s.lastDiscrepancy p.romBits 0 (-1) (sendWire p .searchRom (slotReset p s).2) = (none, s') ∧
      searchPass p s = (.noDevicePresent, endSearch .noDevicePresent .noDeviceResponse s')) ∨
    (∃ lz s', (slotReset p s).1 = true ∧
      searchPositions p s.lastDiscrepancy p.romBits 0 (-1) (sendWire p .searchRom (slotReset p s).2) = (some lz, s') ∧
      searchPass p s = concludePass p lz s') := by
  cases hr : (slotReset p s).1
  · left
    simp [searchPass, hr]
  · right
    rcases hp : searchPositions p s.lastDiscrepancy p.romBits 0 (-1) (sendWire p .searchRom (slotReset p s).2) with
      ⟨_ | lz, s'⟩
    · left
      exact ⟨s', rfl, rfl, by simp [searchPass, hr, hp]⟩
    · right
      exact ⟨lz, s', rfl, rfl, by simp [searchPass, hr, hp]⟩

/-- The check of a ROM code is a comparison with its CRC, under either byte order (R164). -/
theorem romOk_eq (p : Params) (rom : RomCode) : romOk p rom = (romCrc p rom == romByte rom 7) := by
  unfold romOk romCrc crcOk
  split <;> simp_all

/-- All the end of a pass can do (R193 to R195). -/
theorem concludePass_cases (p : Params) (lz : Int) (s : State) :
    (romOk p s.romAcc = true ∧ concludePass p lz s = (.found s.romAcc, { closePass lz s with err := .none })) ∨
    (romOk p s.romAcc = false ∧
      concludePass p lz s =
        (.checksumMismatch, endSearch .checksumMismatch .checksumMismatch (closePass lz s))) := by
  cases h : romOk p s.romAcc <;> simp [concludePass, h]

end Sys2Proof.Machine
end

