-- ==== Sys2Proof/Laws/Exec.lean ====
section
/-! SUPPORT. What `exec` can answer, said once: INIT, a refusal, or an accepted command whose body keeps the
history. -/

namespace Sys2Proof.Machine

open Sys2Proof.Safety

/-- A body keeps what a command's frame (`beginCommand`, `finishCommand`) alone may change, `S.init`, the
configuration, and the ROM codes on the bus. -/
structure KeepsHistory (s t : State) : Prop where
  marks : t.marks = s.marks
  port : t.port = s.port
  observations : t.observations = s.observations
  init : t.init = s.init
  config : t.config = s.config
  injected : t.injected = s.injected
  timing : t.timing = s.timing
  roms : envRoms t.env = envRoms s.env

theorem searchPositions_keepsHistory (p : Params) (ld : Int) (n i : Nat) (lz : Int) (s : State) :
    KeepsHistory s (searchPositions p ld n i lz s).2 := by
  have hr := searchPositions_envRoms p ld n i lz s
  rw [searchPositions_frame]
  exact ⟨rfl, rfl, rfl, rfl, rfl, rfl, rfl, hr⟩

/-- What a pass has before its positions. -/
theorem passStart_keepsHistory (p : Params) (s : State) :
    KeepsHistory s (sendWire p .searchRom (slotReset p s).2) := by
  rw [sendWire, writeByte_eq, slotReset_snd]
  exact ⟨rfl, rfl, rfl, rfl, rfl, rfl, rfl, by simp⟩

theorem KeepsHistory.trans {s t u : State} (h : KeepsHistory s t) (h' : KeepsHistory t u) : KeepsHistory s u :=
  ⟨h'.1.trans h.1, h'.2.trans h.2, h'.3.trans h.3, h'.4.trans h.4, h'.5.trans h.5, h'.6.trans h.6, h'.7.trans h.7,
    h'.8.trans h.8⟩

theorem searchPass_keepsHistory (p : Params) (s : State) : KeepsHistory s (searchPass p s).2 := by
  have hpos := (passStart_keepsHistory p s).trans
    (searchPositions_keepsHistory p s.lastDiscrepancy p.romBits 0 (-1) (sendWire p .searchRom (slotReset p s).2))
  rcases searchPass_cases p s with ⟨_, h⟩ | ⟨s', _, hp, h⟩ | ⟨lz, s', _, hp, h⟩
  · rw [h, slotReset_snd]
    exact ⟨rfl, rfl, rfl, rfl, rfl, rfl, rfl, by simp⟩
  · rw [h]
    rw [hp] at hpos
    exact ⟨hpos.1, hpos.2, hpos.3, hpos.4, hpos.5, hpos.6, hpos.7, hpos.8⟩
  · rw [h]
    rw [hp] at hpos
    rcases concludePass_cases p lz s' with ⟨_, h'⟩ | ⟨_, h'⟩ <;> rw [h'] <;>
      exact ⟨hpos.1, hpos.2, hpos.3, hpos.4, hpos.5, hpos.6, hpos.7, hpos.8⟩

theorem searchStep_keepsHistory (p : Params) (s : State) : KeepsHistory s (searchStep p s).2 := by
  unfold searchStep
  split
  · exact ⟨rfl, rfl, rfl, rfl, rfl, rfl, rfl, by simp⟩
  · exact ⟨rfl, rfl, rfl, rfl, rfl, rfl, rfl, by simp⟩
  · exact ⟨rfl, rfl, rfl, rfl, rfl, rfl, rfl, by simp⟩
  · exact searchPass_keepsHistory p s
  · exact searchPass_keepsHistory p s

/-- `read_scratchpad` (R230) answers one of these two. -/
theorem readScratchpad_eq (p : Params) (rom : RomCode) (s : State) :
    readScratchpad p rom s =
      (if padOk p (padOf p rom s) then .ok (padOf p rom s) else .checksumError,
        { s with
          presence := presenceOf p s
          busDrive := .released
          trace := s.trace ++ readBytesTrace p rom (!presenceOf p s) (fetchedBytes p rom s)
          env := envAfterFetch p rom s.env
          sampleCount := s.sampleCount + (1 + 8 * p.scratchpadBytes) }) := by
  simp only [readScratchpad, fetchScratchpad_eq]
  split <;> rfl

/-- READ_SCRATCHPAD's body (R231). -/
theorem readScratchpadBody_eq (p : Params) (rom : RomCode) (s : State) :
    readScratchpadBody p rom s =
      (if padOk p (padOf p rom s) then .ok (padOf p rom s) else .checksumError,
        { s with
          presence := presenceOf p s
          err := if padOk p (padOf p rom s) then .none else .checksumMismatch
          busDrive := .released
          trace := s.trace ++ readBytesTrace p rom (!presenceOf p s) (fetchedBytes p rom s)
          env := envAfterFetch p rom s.env
          sampleCount := s.sampleCount + (1 + 8 * p.scratchpadBytes) }) := by
  unfold readScratchpadBody
  rw [readScratchpad_eq]
  generalize padOf p rom s = f
  cases h : padOk p f <;> simp [setErr]

/-- READ_TEMPERATURE's body (R235). -/
theorem readTemperatureBody_eq (p : Params) (rom : RomCode) (s : State) :
    readTemperatureBody p rom s =
      (if padOk p (padOf p rom s) then .ok (decodeTemperature (padOf p rom s)) else .checksumError,
        { s with
          presence := presenceOf p s
          err := if padOk p (padOf p rom s) then .none else .checksumMismatch
          busDrive := .released
          trace := s.trace ++ readBytesTrace p rom (!presenceOf p s) (fetchedBytes p rom s)
          env := envAfterFetch p rom s.env
          sampleCount := s.sampleCount + (1 + 8 * p.scratchpadBytes) }) := by
  unfold readTemperatureBody
  rw [readScratchpad_eq]
  generalize padOf p rom s = f
  cases h : padOk p f <;> simp [setErr]

/-- The state after the read transaction of a session command (R230). -/
def afterFetch (p : Params) (rom : RomCode) (s : State) : State :=
  { s with
    presence := presenceOf p s
    busDrive := .released
    trace := s.trace ++ readBytesTrace p rom (!presenceOf p s) (fetchedBytes p rom s)
    env := envAfterFetch p rom s.env
    sampleCount := s.sampleCount + (1 + 8 * p.scratchpadBytes) }

/-- SET_RESOLUTION's body (R245) where the check holds: the write transaction follows. -/
theorem setResolutionBody_ok {p : Params} {rom : RomCode} {s : State} (res : Resolution)
    (h : padOk p (padOf p rom s) = true) :
    setResolutionBody p rom res s =
      (true,
        setErr .none
          (writeScratchpad p rom { padOf p rom s with cfg := cfgByte p res } (afterFetch p rom s))) := by
  unfold setResolutionBody
  rw [readScratchpad_eq]
  simp [h, afterFetch]

/-- SET_RESOLUTION's body (R245) where the check fails: nothing more is sent. -/
theorem setResolutionBody_fail {p : Params} {rom : RomCode} {s : State} (res : Resolution)
    (h : ¬padOk p (padOf p rom s) = true) :
    setResolutionBody p rom res s = (false, setErr .checksumMismatch (afterFetch p rom s)) := by
  unfold setResolutionBody
  rw [readScratchpad_eq]
  simp [h, afterFetch]

theorem setResolutionBody_keepsHistory (p : Params) (rom : RomCode) (res : Resolution) (s : State) :
    KeepsHistory s (setResolutionBody p rom res s).2 := by
  by_cases h : padOk p (padOf p rom s) = true
  · rw [setResolutionBody_ok res h]
    dsimp only
    rw [writeScratchpad_eq]
    exact ⟨rfl, rfl, rfl, rfl, rfl, rfl, rfl, by simp [afterFetch, setErr]⟩
  · rw [setResolutionBody_fail res h]
    exact ⟨rfl, rfl, rfl, rfl, rfl, rfl, rfl, by simp [afterFetch, setErr]⟩

/-- A command over a body that keeps the history. -/
theorem command_shape {i : Instr} {body : State → Result × State} {s : State}
    (hb : ∀ u, KeepsHistory u (body u).2) :
    (s.init = false ∧ command i body s = .next (refuse .notInitialised s)) ∨
    (s.init = true ∧ ∃ r u, KeepsHistory (beginCommand s) u ∧ command i body s = .next (finishCommand i r u)) := by
  cases h : s.init
  · exact .inl ⟨rfl, command_refused h⟩
  · exact .inr ⟨rfl, _, _, hb _, command_next h⟩

/-- Every arm but INIT's and SEARCH_STEP's is a command over a body that keeps the history. -/
theorem exec_command (i : Instr) (h : i ≠ .init) (h' : i ≠ .searchStep) :
    ∃ body : State → Result × State, (∀ u, KeepsHistory u (body u).2) ∧ ∀ s, exec i s = command i body s := by
  cases i with
  | init => exact absurd rfl h
  | searchStep => exact absurd rfl h'
  | readScratchpad rom =>
    refine ⟨fun s => (.pad (readScratchpadBody s.config rom s).1, (readScratchpadBody s.config rom s).2), fun u => ?_,
      fun s => by simp only [exec, execReadScratchpad]⟩
    dsimp only
    rw [readScratchpadBody_eq]
    exact ⟨rfl, rfl, rfl, rfl, rfl, rfl, rfl, by simp⟩
  | readTemperature rom =>
    refine ⟨fun s => (.temp (readTemperatureBody s.config rom s).1, (readTemperatureBody s.config rom s).2), fun u => ?_,
      fun s => by simp only [exec, execReadTemperature]⟩
    dsimp only
    rw [readTemperatureBody_eq]
    exact ⟨rfl, rfl, rfl, rfl, rfl, rfl, rfl, by simp⟩
  | setResolution rom res =>
    exact ⟨fun s => (.bool (setResolutionBody s.config rom res s).1, (setResolutionBody s.config rom res s).2),
      fun u => setResolutionBody_keepsHistory u.config rom res u, fun s => by simp only [exec, execSetResolution]⟩
  | readStatus =>
    exact ⟨fun s => (.status (statusWord s), s), fun _ => ⟨rfl, rfl, rfl, rfl, rfl, rfl, rfl, by simp⟩,
      fun s => by simp only [exec, execReadStatus]⟩
  | crc8 data =>
    exact ⟨fun s => (.byte (crc8 s.config data), s), fun _ => ⟨rfl, rfl, rfl, rfl, rfl, rfl, rfl, by simp⟩,
      fun s => by simp only [exec, execCrc8]⟩
  | formatTemperature t16 =>
    exact ⟨fun s => (.text (formatTemperature t16), s), fun _ => ⟨rfl, rfl, rfl, rfl, rfl, rfl, rfl, by simp⟩,
      fun s => by simp only [exec, execFormatTemperature]⟩
  | startSearch =>
    exact ⟨fun s => (.unit, startCursor s), fun _ => ⟨rfl, rfl, rfl, rfl, rfl, rfl, rfl, by simp⟩,
      fun s => by simp only [exec, execStartSearch]⟩
  | write1 =>
    refine ⟨fun s => (.unit, slotWrite1 s.config s), fun u => ?_, fun s => by simp only [exec, execWrite1]⟩
    dsimp only
    rw [slotWrite1_eq]
    exact ⟨rfl, rfl, rfl, rfl, rfl, rfl, rfl, by simp⟩
  | write0 =>
    refine ⟨fun s => (.unit, slotWrite0 s.config s), fun u => ?_, fun s => by simp only [exec, execWrite0]⟩
    dsimp only
    rw [slotWrite0_eq]
    exact ⟨rfl, rfl, rfl, rfl, rfl, rfl, rfl, by simp⟩
  | readBit =>
    refine ⟨fun s => (.bit (slotRead s.config s).1, (slotRead s.config s).2), fun u => ?_,
      fun s => by simp only [exec, execReadBit]⟩
    dsimp only
    rw [slotRead_snd]
    exact ⟨rfl, rfl, rfl, rfl, rfl, rfl, rfl, by simp⟩
  | pollConversionDone rom =>
    refine ⟨fun s => (.bool (slotRead s.config s).1, (slotRead s.config s).2), fun u => ?_,
      fun s => by simp only [exec, execPollConversionDone]⟩
    dsimp only
    rw [slotRead_snd]
    exact ⟨rfl, rfl, rfl, rfl, rfl, rfl, rfl, by simp⟩
  | reset =>
    refine ⟨fun s => (.bool (slotReset s.config s).1, (slotReset s.config s).2), fun u => ?_,
      fun s => by simp only [exec, execReset]⟩
    dsimp only
    rw [slotReset_snd]
    exact ⟨rfl, rfl, rfl, rfl, rfl, rfl, rfl, by simp⟩
  | writeByte v8 =>
    refine ⟨fun s => (.unit, writeByte s.config v8 s), fun u => ?_, fun s => by simp only [exec, execWriteByte]⟩
    dsimp only
    rw [writeByte_eq]
    exact ⟨rfl, rfl, rfl, rfl, rfl, rfl, rfl, by simp⟩
  | readByte =>
    refine ⟨fun s => (.byte (readByte s.config s).1, (readByte s.config s).2), fun u => ?_,
      fun s => by simp only [exec, execReadByte]⟩
    dsimp only
    rw [readByte_eq]
    exact ⟨rfl, rfl, rfl, rfl, rfl, rfl, rfl, by simp⟩
  | matchRom rom =>
    refine ⟨fun s => (.unit, matchRom s.config rom s), fun u => ?_, fun s => by simp only [exec, execMatchRom]⟩
    dsimp only
    rw [matchRom_eq]
    exact ⟨rfl, rfl, rfl, rfl, rfl, rfl, rfl, by simp⟩
  | requestConversion rom =>
    refine ⟨fun s => (.unit, sendWire s.config .convertT (matchRom s.config rom s)), fun u => ?_,
      fun s => by simp only [exec, execRequestConversion]⟩
    dsimp only
    rw [sendWire, writeByte_eq, matchRom_eq]
    exact ⟨rfl, rfl, rfl, rfl, rfl, rfl, rfl, by simp⟩
  | wireSearchRom =>
    refine ⟨fun s => (.unit, sendWire s.config .searchRom s), fun u => ?_,
      fun s => by simp only [exec, execWireSearchRom]⟩
    dsimp only
    rw [sendWire, writeByte_eq]
    exact ⟨rfl, rfl, rfl, rfl, rfl, rfl, rfl, by simp⟩
  | wireMatchRom =>
    refine ⟨fun s => (.unit, sendWire s.config .matchRom s), fun u => ?_,
      fun s => by simp only [exec, execWireMatchRom]⟩
    dsimp only
    rw [sendWire, writeByte_eq]
    exact ⟨rfl, rfl, rfl, rfl, rfl, rfl, rfl, by simp⟩
  | wireConvertT =>
    refine ⟨fun s => (.unit, sendWire s.config .convertT s), fun u => ?_,
      fun s => by simp only [exec, execWireConvertT]⟩
    dsimp only
    rw [sendWire, writeByte_eq]
    exact ⟨rfl, rfl, rfl, rfl, rfl, rfl, rfl, by simp⟩
  | wireReadScratchpad =>
    refine ⟨fun s => (.unit, sendWire s.config .readScratchpad s), fun u => ?_,
      fun s => by simp only [exec, execWireReadScratchpad]⟩
    dsimp only
    rw [sendWire, writeByte_eq]
    exact ⟨rfl, rfl, rfl, rfl, rfl, rfl, rfl, by simp⟩
  | wireWriteScratchpad =>
    refine ⟨fun s => (.unit, sendWire s.config .writeScratchpad s), fun u => ?_,
      fun s => by simp only [exec, execWireWriteScratchpad]⟩
    dsimp only
    rw [sendWire, writeByte_eq]
    exact ⟨rfl, rfl, rfl, rfl, rfl, rfl, rfl, by simp⟩

/-- SEARCH_STEP with a search to step is a command over `searchStep`; without one it is refused (R183). -/
theorem execSearchStep_eq (s : State) :
    exec .searchStep s =
      if s.init = true ∧ s.searchState = .notStarted then .next (refuse .searchNotStarted s)
      else command .searchStep (fun s => (.outcome (searchStep s.config s).1, (searchStep s.config s).2)) s := by
  simp only [exec, execSearchStep]

/-- All that `exec` can answer. -/
theorem exec_cases (i : Instr) (s : State) :
    (i = .init ∧ exec i s = .next (finishCommand .init .unit (bindTiming (initialiseCore (beginCommand s))))) ∨
    (¬Accepted i s ∧ ∃ why, exec i s = .next (refuse why s)) ∨
    (i ≠ .init ∧ s.init = true ∧ Accepted i s ∧
      ∃ r u, KeepsHistory (beginCommand s) u ∧ exec i s = .next (finishCommand i r u)) := by
  by_cases h1 : i = .init
  · subst h1
    exact .inl ⟨rfl, rfl⟩
  right
  by_cases h2 : i = .searchStep
  · subst h2
    rw [execSearchStep_eq]
    by_cases h3 : s.init = true ∧ s.searchState = .notStarted
    · rw [if_pos h3]
      exact .inl ⟨by simp [Accepted, h3], _, rfl⟩
    · rw [if_neg h3]
      rcases command_shape (s := s) (i := .searchStep)
          (body := fun s => (.outcome (searchStep s.config s).1, (searchStep s.config s).2))
          (fun u => searchStep_keepsHistory u.config u) with ⟨h, he⟩ | ⟨h, he⟩
      · exact .inl ⟨by simp [Accepted, h], _, he⟩
      · exact .inr ⟨h1, h, .inr ⟨h, fun _ hs => h3 ⟨h, hs⟩⟩, he⟩
  · obtain ⟨body, hb, he⟩ := exec_command i h1 h2
    rcases command_shape (s := s) (i := i) hb with ⟨h, hc⟩ | ⟨h, hc⟩
    · exact .inl ⟨by simp [Accepted, h, h1], _, (he s).trans hc⟩
    · refine .inr ⟨h1, h, .inr ⟨h, fun h' => absurd h' h2⟩, ?_⟩
      simpa only [he s] using hc

end Sys2Proof.Machine
end

