-- ==== Sys2Proof/Laws/PerInstr.lean ====
section
/-! SUPPORT. The per-instruction family `EncodeLength`: how long each instruction's frame is (30_encoding.md R81,
R84, R95), one lemma per constructor. -/

namespace Sys2Proof.Laws.EncodeLength

/-- The number of bytes in a frame; a wire item is one byte (R85). -/
def frameLength : Frame → Nat
  | .command bytes => bytes.length
  | .wire _ => 1

/-- The length that R81 gives the format of an instruction. -/
def tabledLength : Instr → Nat
  | .init | .readStatus | .write1 | .write0 | .readBit | .reset | .readByte | .startSearch | .searchStep => 1
  | .writeByte _ => 2
  | .crc8 data => 2 + data.length
  | .matchRom _ | .requestConversion _ | .pollConversionDone _ | .readScratchpad _ | .readTemperature _ => 9
  | .setResolution _ _ => 10
  | .formatTemperature _ => 3
  | .wireSearchRom | .wireMatchRom | .wireConvertT | .wireReadScratchpad | .wireWriteScratchpad => 1

/-- The frame of an instruction has the length of its format. -/
def Statement (i : Instr) : Prop :=
  frameLength (encode i) = tabledLength i

theorem init : Statement .init := rfl

theorem readStatus : Statement .readStatus := rfl

theorem write1 : Statement .write1 := rfl

theorem write0 : Statement .write0 := rfl

theorem readBit : Statement .readBit := rfl

theorem reset : Statement .reset := rfl

theorem writeByte (v8 : Byte) : Statement (.writeByte v8) := rfl

theorem readByte : Statement .readByte := rfl

theorem crc8 (data : List Byte) : Statement (.crc8 data) := by
  show data.length + 1 + 1 = 2 + data.length
  omega

theorem startSearch : Statement .startSearch := rfl

theorem searchStep : Statement .searchStep := rfl

theorem matchRom (rom : RomCode) : Statement (.matchRom rom) := rfl

theorem requestConversion (rom : RomCode) : Statement (.requestConversion rom) := rfl

theorem pollConversionDone (rom : RomCode) : Statement (.pollConversionDone rom) := rfl

theorem readScratchpad (rom : RomCode) : Statement (.readScratchpad rom) := rfl

theorem readTemperature (rom : RomCode) : Statement (.readTemperature rom) := rfl

theorem setResolution (rom : RomCode) (res : Resolution) : Statement (.setResolution rom res) := rfl

theorem formatTemperature (t16 : Temperature) : Statement (.formatTemperature t16) := rfl

theorem wireSearchRom : Statement .wireSearchRom := rfl

theorem wireMatchRom : Statement .wireMatchRom := rfl

theorem wireConvertT : Statement .wireConvertT := rfl

theorem wireReadScratchpad : Statement .wireReadScratchpad := rfl

theorem wireWriteScratchpad : Statement .wireWriteScratchpad := rfl

end Sys2Proof.Laws.EncodeLength
end

