-- ==== Sys2Proof/Laws/SearchDraws.lean ====
section
/-! SUPPORT. What a search pass does when the draws are fixed (43_rom_search.md R184 to R191): position by
position, the accumulator, the candidate and the trace are those that R188 to R190 give. -/

namespace Sys2Proof.Machine

open Sys2Proof.Safety

/-- The accumulator after the positions from `i` on that read these pairs (R188, R189, R191). -/
def accAfter (ld : Int) : Nat → List (Bool × Bool) → RomCode → RomCode
  | _, [], acc => acc
  | i, b :: bs, acc => accAfter ld (i + 1) bs (setBit acc i (directionBit ld acc i b.1 b.2))

/-- The last-zero candidate after those positions (R190). -/
def lastZeroAfter (rule : ZeroRule) (ld : Int) : Nat → List (Bool × Bool) → RomCode → Int → Int
  | _, [], _, lz => lz
  | i, b :: bs, acc, lz =>
    lastZeroAfter rule ld (i + 1) bs (setBit acc i (directionBit ld acc i b.1 b.2))
      (nextLastZero rule ld acc i b.1 b.2 lz)

/-- The trace of those positions (R186, R191). -/
def traceOfPairs (p : Params) (ld : Int) : Nat → List (Bool × Bool) → RomCode → List BusEvent
  | _, [], _ => []
  | i, b :: bs, acc =>
    readBitTrace p b.1 ++ readBitTrace p b.2 ++ writeBitTrace p (directionBit ld acc i b.1 b.2)
      ++ traceOfPairs p ld (i + 1) bs (setBit acc i (directionBit ld acc i b.1 b.2))

/-- Fixed draws that hold pairs, none of them two ones, take the positions through exactly those pairs. -/
theorem searchPositions_draws (p : Params) (ld : Int) (m i : Nat) (lz : Int) (pairs : List (Bool × Bool)) (ds : List Bool)
    (s : State) (hp : ∀ b ∈ pairs, b ≠ (true, true)) (he : s.env = .draws (pairSamples pairs ++ ds))
    (hb : s.busDrive = .released) :
    searchPositions p ld (pairs.length + m) i lz s =
      searchPositions p ld m (i + pairs.length) (lastZeroAfter p.zeroRule ld i pairs s.romAcc lz)
        { s with
          romAcc := accAfter ld i pairs s.romAcc
          busDrive := .released
          trace := s.trace ++ traceOfPairs p ld i pairs s.romAcc
          env := .draws ds
          sampleCount := s.sampleCount + 2 * pairs.length } := by
  induction pairs generalizing i lz s with
  | nil =>
    simp [lastZeroAfter, accAfter, traceOfPairs]
    congr 1
    cases s
    simp_all [pairSamples]
  | cons b bs ih =>
    have h1 : (slotRead p s).1 = b.1 := by simp [slotRead_fst, he, pairSamples, lineLevel]
    have h2 : (slotRead p (slotRead p s).2).1 = b.2 := by
      rw [slotRead_fst, slotRead_snd]
      simp [he, pairSamples, lineLevel, envAfterSlot, envAfterSample]
    have hb' : (b.1 && b.2) = false := by
      have hne := hp b (by simp)
      rcases b with ⟨_ | _, _ | _⟩ <;> simp_all
    rw [List.length_cons, Nat.succ_add]
    simp only [searchPositions, h1, h2, hb', Bool.false_eq_true, if_false]
    have hd : (slotRead p (slotRead p s).2).2 =
        { s with
          busDrive := .released
          trace := s.trace ++ (readBitTrace p b.1 ++ readBitTrace p b.2)
          env := .draws (pairSamples bs ++ ds)
          sampleCount := s.sampleCount + 2 } := by
      rw [slotRead_snd, h2, slotRead_snd, h1]
      simp [he, pairSamples, envAfterSlot, envAfterSample]
    rw [hd, ih]
    · have hn : s.sampleCount + 2 + 2 * bs.length = s.sampleCount + 2 * (bs.length + 1) := by omega
      have hi : i + 1 + bs.length = i + (bs.length + 1) := by omega
      simp [lastZeroAfter, accAfter, traceOfPairs, writeDirection, writeBit_eq, hn, hi]
    · exact fun b hb => hp b (by simp [hb])
    · simp [writeDirection, writeBit_eq, envAfterSlot]
    · simp [writeDirection, writeBit_eq]

/-- The direction bit depends only on the accumulator bit of its own position. -/
theorem directionBit_eq_directionAt (ld : Int) (acc acc0 : RomCode) (i : Nat) (pairs : List (Bool × Bool))
    (h : acc.getLsbD i = acc0.getLsbD i) :
    directionBit ld acc i (pairAt pairs i).1 (pairAt pairs i).2 = directionAt ld acc0 pairs i := by
  unfold directionBit directionAt chooseBit
  by_cases h1 : (pairAt pairs i).1 = (pairAt pairs i).2
  · simp only [h1, ne_eq, not_true, if_false, if_true, h]
    split
    · rfl
    · split <;> simp_all
  · simp [h1]

end Sys2Proof.Machine
end

