-- ==== Sys2Proof/Laws/Trace.lean ====
section
/-! SUPPORT. What a bus trace adds up to: its modelled time, its slots and its reset slots, and that its samples are taken
with the line released (40_bit_slots.md R111, R112, R118; 70_reset_and_hazards.md R360). -/

namespace Sys2Proof.Machine

open Sys2Proof.Safety

@[simp] theorem samplesReleased_append (d : Drive) (x y : List BusEvent) :
    samplesReleased d (x ++ y) = (samplesReleased d x && samplesReleased (driveAfter d x) y) := by
  induction x generalizing d with
  | nil => simp [samplesReleased, driveAfter]
  | cons e x ih => cases e <;> simp [samplesReleased, driveAfter, ih, Bool.and_assoc]

@[simp] theorem driveAfter_append (d : Drive) (x y : List BusEvent) :
    driveAfter d (x ++ y) = driveAfter (driveAfter d x) y := by
  induction x generalizing d with
  | nil => simp [driveAfter]
  | cons e x ih => cases e <;> simp [driveAfter, ih]

@[simp] theorem traceTime_append (x y : List BusEvent) : traceTime (x ++ y) = traceTime x + traceTime y := by
  simp [traceTime]

@[simp] theorem slotCount_append (x y : List BusEvent) : slotCount (x ++ y) = slotCount x + slotCount y := by
  simp [slotCount]

@[simp] theorem resetCount_append (p : Params) (x y : List BusEvent) :
    resetCount p (x ++ y) = resetCount p x + resetCount p y := by
  simp [resetCount]

/-! ### Samples with the line released, whatever the parameters -/

/-- A trace that starts and ends with the line released and samples only a released line (R111, R118). -/
structure Released (tr : List BusEvent) : Prop where
  samples : samplesReleased .released tr = true
  ends : driveAfter .released tr = .released

theorem Released.nil : Released [] := ⟨rfl, rfl⟩

theorem Released.append {x y : List BusEvent} (h : Released x) (h' : Released y) : Released (x ++ y) :=
  ⟨by rw [samplesReleased_append, h.samples, h.ends, h'.samples]; rfl, by rw [driveAfter_append, h.ends, h'.ends]⟩

theorem Released.flatMap {α : Type} {f : α → List BusEvent} (h : ∀ x, Released (f x)) (l : List α) :
    Released (l.flatMap f) := by
  induction l with
  | nil => exact Released.nil
  | cons x l ih => exact (h x).append ih

theorem released_writeBit (p : Params) (b : Bool) : Released (writeBitTrace p b) := by
  cases b <;> exact ⟨rfl, rfl⟩

theorem released_readBit (p : Params) (v : Bool) : Released (readBitTrace p v) := ⟨rfl, rfl⟩

theorem released_reset (p : Params) (v : Bool) : Released (resetTrace p v) := ⟨rfl, rfl⟩

theorem released_writeByte (p : Params) (v : Byte) : Released (writeByteTrace p v) :=
  Released.flatMap (released_writeBit p) _

theorem released_readByte (p : Params) (v : Byte) : Released (readByteTrace p v) :=
  Released.flatMap (released_readBit p) _

theorem released_writeBytes (p : Params) (vs : List Byte) : Released (writeBytesTrace p vs) :=
  Released.flatMap (released_writeByte p) _

theorem released_match (p : Params) (rom : RomCode) (v : Bool) : Released (matchTrace p rom v) :=
  (released_reset p v).append (released_writeBytes p _)

theorem released_readBytes (p : Params) (rom : RomCode) (v : Bool) (bytes : List Byte) :
    Released (readBytesTrace p rom v bytes) :=
  ((released_match p rom v).append (released_writeByte p _)).append (Released.flatMap (released_readByte p) _)

theorem released_writePad (p : Params) (rom : RomCode) (v : Bool) (payload : List Byte) :
    Released (writePadTrace p rom v payload) :=
  (released_match p rom v).append (released_writeBytes p _)

/-- The positions of a search pass add a trace whose samples are taken released (R186, R191). -/
theorem searchPositions_released_trace (p : Params) (ld : Int) (n i : Nat) (lz : Int) (s : State) :
    ∃ tr, (searchPositions p ld n i lz s).2.trace = s.trace ++ tr ∧ Released tr := by
  induction n generalizing i lz s with
  | zero => exact ⟨[], by simp [searchPositions], Released.nil⟩
  | succ n ih =>
    simp only [searchPositions]
    generalize h1 : (slotRead p s).1 = b1
    generalize h2 : (slotRead p (slotRead p s).2).1 = b2
    have ht : (slotRead p (slotRead p s).2).2.trace = s.trace ++ (readBitTrace p b1 ++ readBitTrace p b2) := by
      rw [slotRead_snd, h2, slotRead_snd, h1]
      simp
    have hr := (released_readBit p b1).append (released_readBit p b2)
    generalize (slotRead p (slotRead p s).2).2 = u at ht
    split
    · exact ⟨_, ht, hr⟩
    · obtain ⟨tr, h3, h4⟩ := ih (i + 1) (nextLastZero p.zeroRule ld u.romAcc i b1 b2 lz)
        (writeDirection p i (directionBit ld u.romAcc i b1 b2) u)
      exact ⟨_, h3.trans (by simp only [writeDirection, writeBit_eq, ht, List.append_assoc]),
        (hr.append (released_writeBit p (directionBit ld u.romAcc i b1 b2))).append h4⟩

/-! ### Time, slots and reset slots at R9's values -/

/-- A trace that takes a given time in a given number of slots, so many of them reset slots. -/
structure Measured (tr : List BusEvent) (time slots resets : Nat) : Prop where
  time : traceTime tr = time
  slots : slotCount tr = slots
  resets : resetCount params tr = resets

theorem Measured.nil : Measured [] 0 0 0 := ⟨rfl, rfl, rfl⟩

theorem Measured.append {x y : List BusEvent} {a b c d e f : Nat} (h : Measured x a b c) (h' : Measured y d e f) :
    Measured (x ++ y) (a + d) (b + e) (c + f) :=
  ⟨by rw [traceTime_append, h.time, h'.time], by rw [slotCount_append, h.slots, h'.slots],
    by rw [resetCount_append, h.resets, h'.resets]⟩

theorem Measured.of {x : List BusEvent} {a b c d e f : Nat} (h : Measured x a b c) (hd : a = d) (he : b = e)
    (hf : c = f) : Measured x d e f :=
  hd ▸ he ▸ hf ▸ h

theorem Measured.flatMap {α : Type} {f : α → List BusEvent} {a b : Nat} (h : ∀ x, Measured (f x) a b 0) (l : List α) :
    Measured (l.flatMap f) (l.length * a) (l.length * b) 0 := by
  induction l with
  | nil => simpa using Measured.nil
  | cons x l ih =>
    have hx := (h x).append ih
    simp only [List.flatMap_cons, List.length_cons, Nat.succ_mul]
    rwa [Nat.add_comm a, Nat.add_comm b] at hx

/-- A write slot: 70 µs (R113, R114). -/
theorem measured_writeBit (b : Bool) : Measured (writeBitTrace params b) 70 1 0 := by
  cases b <;> exact ⟨by decide, by decide, by decide⟩

/-- A read slot: 70 µs (R115). -/
theorem measured_readBit (v : Bool) : Measured (readBitTrace params v) 70 1 0 := by
  cases v <;> exact ⟨by decide, by decide, by decide⟩

/-- A reset slot: 960 µs (R116). -/
theorem measured_reset (v : Bool) : Measured (resetTrace params v) 960 1 1 := by
  cases v <;> exact ⟨by decide, by decide, by decide⟩

/-- A byte written: 560 µs (R140). -/
theorem measured_writeByte (v : Byte) : Measured (writeByteTrace params v) 560 8 0 :=
  (Measured.flatMap measured_writeBit _).of (by simp [byteBits]) (by simp [byteBits]) rfl

/-- A byte read: 560 µs (R142). -/
theorem measured_readByte (v : Byte) : Measured (readByteTrace params v) 560 8 0 :=
  (Measured.flatMap measured_readBit _).of (by simp [byteBits]) (by simp [byteBits]) rfl

theorem measured_writeBytes (vs : List Byte) :
    Measured (writeBytesTrace params vs) (vs.length * 560) (vs.length * 8) 0 :=
  Measured.flatMap measured_writeByte _

/-- The match transaction: 6000 µs (44_device_session.md R220, R249). -/
theorem measured_match (rom : RomCode) (v : Bool) : Measured (matchTrace params rom v) 6000 73 1 :=
  ((measured_reset v).append (measured_writeBytes (0x55#8 :: romBytes rom))).of (by simp) (by simp) rfl

/-- The read transaction of nine bytes: 11600 µs (R230, R249). -/
theorem measured_readBytes (rom : RomCode) (v : Bool) {bytes : List Byte} (h : bytes.length = 9) :
    Measured (readBytesTrace params rom v bytes) 11600 153 1 :=
  (((measured_match rom v).append (measured_writeByte _)).append
    (Measured.flatMap measured_readByte bytes)).of (by simp [h]) (by simp [h]) rfl

/-- The write transaction: 8240 µs (R245, R249). -/
theorem measured_writePad (rom : RomCode) (v : Bool) (f : Scratchpad) :
    Measured (writePadTrace params rom v (writeFrame params f)) 8240 105 1 :=
  ((measured_match rom v).append (measured_writeBytes (0x4E#8 :: writeFrame params f))).of
    (by simp [writeFrame, params]) (by simp [writeFrame, params]) rfl

/-- The positions of a search pass (43_rom_search.md R186, R187, R191). -/
theorem searchPositions_measured (ld : Int) (n i : Nat) (lz : Int) (s : State) :
    ∃ tr, (searchPositions params ld n i lz s).2.trace = s.trace ++ tr ∧
      ((searchPositions params ld n i lz s).1 = none → ∃ k, k < n ∧ Measured tr (140 + 210 * k) (3 * k + 2) 0) ∧
      (∀ l, (searchPositions params ld n i lz s).1 = some l → Measured tr (210 * n) (3 * n) 0) := by
  induction n generalizing i lz s with
  | zero => exact ⟨[], by simp [searchPositions], by simp [searchPositions], fun _ _ => Measured.nil⟩
  | succ n ih =>
    simp only [searchPositions]
    generalize h1 : (slotRead params s).1 = b1
    generalize h2 : (slotRead params (slotRead params s).2).1 = b2
    have ht : (slotRead params (slotRead params s).2).2.trace =
        s.trace ++ (readBitTrace params b1 ++ readBitTrace params b2) := by
      rw [slotRead_snd, h2, slotRead_snd, h1]
      simp
    have hr := (measured_readBit b1).append (measured_readBit b2)
    generalize (slotRead params (slotRead params s).2).2 = u at ht
    split
    · exact ⟨_, ht, fun _ => ⟨0, by omega, hr⟩, by simp⟩
    · have hw := hr.append (measured_writeBit (directionBit ld u.romAcc i b1 b2))
      obtain ⟨tr, h3, h4, h5⟩ := ih (i + 1) (nextLastZero params.zeroRule ld u.romAcc i b1 b2 lz)
        (writeDirection params i (directionBit ld u.romAcc i b1 b2) u)
      refine ⟨_, h3.trans (by simp only [writeDirection, writeBit_eq, ht, List.append_assoc]; rfl), ?_, ?_⟩
      · intro h
        obtain ⟨k, hk, hg⟩ := h4 h
        exact ⟨k + 1, by omega, by simpa using (hw.append hg).of (by omega) (by omega) rfl⟩
      · intro l h
        simpa using (hw.append (h5 l h)).of (by omega) (by omega) rfl

end Sys2Proof.Machine
end

