-- ==== Sys2Proof/Machine/Assembly.lean ====
section
/-! DEFINITION. The written form of a command (30_encoding.md R96): its mnemonic, then its operands separated by
commas. A `rom` is written as its byte list in wire order. -/

namespace Sys2Proof.Machine

/-- The mnemonic of each row of the opcode table (R84, R85). -/
def mnemonicOf : Instr → String
  | .init => "INIT"
  | .readStatus => "READ_STATUS"
  | .write1 => "WRITE1"
  | .write0 => "WRITE0"
  | .readBit => "READBIT"
  | .reset => "RESET"
  | .writeByte _ => "WRITEBYTE"
  | .readByte => "READBYTE"
  | .crc8 _ => "CRC8"
  | .startSearch => "START_SEARCH"
  | .searchStep => "SEARCH_STEP"
  | .matchRom _ => "MATCH_ROM"
  | .requestConversion _ => "REQUEST_CONVERSION"
  | .pollConversionDone _ => "POLL_CONVERSION_DONE"
  | .readScratchpad _ => "READ_SCRATCHPAD"
  | .readTemperature _ => "READ_TEMPERATURE"
  | .setResolution _ _ => "SET_RESOLUTION"
  | .formatTemperature _ => "FORMAT_TEMPERATURE"
  | .wireSearchRom => "WIRE.SEARCH_ROM"
  | .wireMatchRom => "WIRE.MATCH_ROM"
  | .wireConvertT => "WIRE.CONVERT_T"
  | .wireReadScratchpad => "WIRE.READ_SCRATCHPAD"
  | .wireWriteScratchpad => "WIRE.WRITE_SCRATCHPAD"

/-- One hexadecimal digit. -/
def hexDigit (n : Nat) : String :=
  ["0", "1", "2", "3", "4", "5", "6", "7", "8", "9", "A", "B", "C", "D", "E", "F"].getD n "0"

/-- A byte as two hexadecimal digits. -/
def hexByte (v : Byte) : String :=
  hexDigit (v.toNat / 16) ++ hexDigit (v.toNat % 16)

/-- A byte list in wire order. -/
def writtenBytes (vs : List Byte) : String :=
  "[" ++ String.intercalate " " (vs.map hexByte) ++ "]"

/-- The two ways a `rom` is written (R96): its byte list in wire order, or its 16-digit hexadecimal value. -/
inductive RomForm where
  | byteList
  | hexValue
  deriving DecidableEq, Repr

/-- A ROM code as it is written (R96). -/
def writtenRom (form : RomForm) (rom : RomCode) : String :=
  match form with
  | .byteList => writtenBytes (romBytes rom)
  | .hexValue => "0x" ++ String.join ((romBytes rom).reverse.map hexByte)

/-- A 16-bit value as it is written (R96). -/
def writtenWord (w : BitVec 16) : String :=
  "0x" ++ hexByte (highByte w) ++ hexByte (lowByte w)

/-- A resolution as it is written (R96). -/
def writtenResolution : Resolution → String
  | .r9 => "R9"
  | .r10 => "R10"
  | .r11 => "R11"
  | .r12 => "R12"

/-- The operands of a command as they are written. -/
def writtenOperands (form : RomForm) : Instr → List String
  | .writeByte v8 => ["0x" ++ hexByte v8]
  | .crc8 data => [writtenBytes data]
  | .matchRom rom | .requestConversion rom | .pollConversionDone rom | .readScratchpad rom
  | .readTemperature rom => [writtenRom form rom]
  | .setResolution rom res => [writtenRom form rom, writtenResolution res]
  | .formatTemperature t16 => [writtenWord t16]
  | .init | .readStatus | .write1 | .write0 | .readBit | .reset | .readByte | .startSearch | .searchStep
  | .wireSearchRom | .wireMatchRom | .wireConvertT | .wireReadScratchpad | .wireWriteScratchpad => []

/-- A command as it is written (R96). -/
def writtenCommand (form : RomForm) (i : Instr) : String :=
  match writtenOperands form i with
  | [] => mnemonicOf i
  | ops => mnemonicOf i ++ " " ++ String.intercalate ", " ops

end Sys2Proof.Machine
end

