-- ==== Sys2Proof/Tests/Slice0.lean ====
section
/-! SUPPORT. The model's own tests: the well-formedness smoke test, a frame written out for every instruction, a
few steps from the spec's vectors (95_test_vectors.md), and a witness for the hypotheses of every statement. -/

namespace Sys2Proof.Tests

open Sys2Proof.Machine Sys2Proof.Safety

/-! ### Helpers -/

/-- Device A's code and the codes B and C (95_test_vectors.md, conventions). -/
def romA : RomCode := 0x2900000000000128#64
def romB : RomCode := 0x7000000000000228#64
def romC : RomCode := 0xC200000000000428#64

/-- The reference pad P0: 50 05 4B 46 7F FF 0C 10 1C. -/
def padP0 : Scratchpad := ⟨0x50#8, 0x05#8, 0x4B#8, 0x46#8, 0x7F#8, 0xFF#8, 0x0C#8, 0x10#8, 0x1C#8⟩

/-- A device at power-up with pad P0, next temperature 0x0191 and two polls to a conversion (P3). -/
def device (rom : RomCode) : Device := ⟨rom, padP0, 0x0191#16, 2, .deselected⟩

/-- The core just initialised, the injected timing implementation bound. -/
def ready : State := { State.reset with init := true, timing := some exactTiming }

/-- The same core with other parameters (R9, R29). -/
def withConfig (p : Params) (s : State) : State := { s with config := p }

/-- The core initialised, these draws next. -/
def drawing (ds : List Bool) : State := { ready with env := .draws ds }

/-- The core initialised and a search started, these draws next. -/
def searching (ds : List Bool) : State := { drawing ds with searchState := .running }

/-- The core initialised on a reference bus. -/
def onBus (devices : List Device) : State := { ready with env := .reference devices }

/-- The core with a search started on a reference bus. -/
def searchOn (devices : List Device) : State := { onBus devices with searchState := .running }

/-- The core with one frame waiting. -/
def waiting (f : Frame) (s : State) : State := { s with port := [f] }

/-- The state after one instruction. -/
def after (i : Instr) (s : State) : State :=
  match exec i s with
  | .next t => t
  | .fault _ => s
  | .refused _ => s

/-- The state after one step. -/
def stepped (s : State) : State :=
  match step s with
  | .next t => t
  | .fault _ => s
  | .refused _ => s

/-- The last result. -/
def lastResult (s : State) : Option Result := s.observations.getLast?.map (·.result)

/-- The last trace. -/
def lastTrace (s : State) : Option (List BusEvent) := s.observations.getLast?.map (·.trace)

/-! ### Well-formedness -/

/-- R81: a CRC8 operand of 256 bytes has no length byte. -/
theorem test_wellFormed_refuses_long_crc8 : wellFormed (.crc8 (List.replicate 256 0x00#8)) = false := by decide +kernel

theorem test_wellFormed_takes_255_bytes : wellFormed (.crc8 (List.replicate 255 0x00#8)) = true := by decide +kernel

/-! ### Decoding: a frame of every instruction, written from R81, R84, R85 and R92 -/

theorem test_decode_init : decode (.command [0x01#8]) = .ok .init := by decide
theorem test_decode_readStatus : decode (.command [0x02#8]) = .ok .readStatus := by decide
theorem test_decode_write1 : decode (.command [0x10#8]) = .ok .write1 := by decide
theorem test_decode_write0 : decode (.command [0x11#8]) = .ok .write0 := by decide
theorem test_decode_readBit : decode (.command [0x12#8]) = .ok .readBit := by decide
theorem test_decode_reset : decode (.command [0x13#8]) = .ok .reset := by decide
theorem test_decode_writeByte : decode (.command [0x20#8, 0xCC#8]) = .ok (.writeByte 0xCC#8) := by decide
theorem test_decode_readByte : decode (.command [0x21#8]) = .ok .readByte := by decide
theorem test_decode_crc8 :
    decode (.command [0x30#8, 0x07#8, 0x02#8, 0x1C#8, 0xB8#8, 0x01#8, 0x00#8, 0x00#8, 0x00#8]) =
      .ok (.crc8 [0x02#8, 0x1C#8, 0xB8#8, 0x01#8, 0x00#8, 0x00#8, 0x00#8]) := by decide
theorem test_decode_startSearch : decode (.command [0x40#8]) = .ok .startSearch := by decide
theorem test_decode_searchStep : decode (.command [0x41#8]) = .ok .searchStep := by decide
theorem test_decode_matchRom :
    decode (.command [0x50#8, 0x28#8, 0x01#8, 0x00#8, 0x00#8, 0x00#8, 0x00#8, 0x00#8, 0x29#8]) =
      .ok (.matchRom romA) := by decide
theorem test_decode_requestConversion :
    decode (.command [0x51#8, 0x28#8, 0x02#8, 0x00#8, 0x00#8, 0x00#8, 0x00#8, 0x00#8, 0x70#8]) =
      .ok (.requestConversion romB) := by decide
theorem test_decode_pollConversionDone :
    decode (.command [0x52#8, 0x28#8, 0x04#8, 0x00#8, 0x00#8, 0x00#8, 0x00#8, 0x00#8, 0xC2#8]) =
      .ok (.pollConversionDone romC) := by decide
theorem test_decode_readScratchpad :
    decode (.command [0x53#8, 0x28#8, 0x01#8, 0x00#8, 0x00#8, 0x00#8, 0x00#8, 0x00#8, 0x29#8]) =
      .ok (.readScratchpad romA) := by decide
theorem test_decode_readTemperature :
    decode (.command [0x54#8, 0x28#8, 0x01#8, 0x00#8, 0x00#8, 0x00#8, 0x00#8, 0x00#8, 0x29#8]) =
      .ok (.readTemperature romA) := by decide
theorem test_decode_setResolution :
    decode (.command [0x55#8, 0x28#8, 0x01#8, 0x00#8, 0x00#8, 0x00#8, 0x00#8, 0x00#8, 0x29#8, 0x00#8]) =
      .ok (.setResolution romA .r9) := by decide
theorem test_decode_formatTemperature :
    decode (.command [0x60#8, 0x91#8, 0x01#8]) = .ok (.formatTemperature 0x0191#16) := by decide
theorem test_decode_wireSearchRom : decode (.wire 0xF0#8) = .ok .wireSearchRom := by decide
theorem test_decode_wireMatchRom : decode (.wire 0x55#8) = .ok .wireMatchRom := by decide
theorem test_decode_wireConvertT : decode (.wire 0x44#8) = .ok .wireConvertT := by decide
theorem test_decode_wireReadScratchpad : decode (.wire 0xBE#8) = .ok .wireReadScratchpad := by decide
theorem test_decode_wireWriteScratchpad : decode (.wire 0x4E#8) = .ok .wireWriteScratchpad := by decide

/-- V-ENC-2: the refused frames. -/
theorem test_decode_refuses :
    decode (.command [0x03#8]) = .error .reservedOpcode ∧ decode (.command [0x00#8]) = .error .reservedOpcode ∧
    decode (.command [0xFF#8]) = .error .reservedOpcode ∧ decode (.command [0x20#8]) = .error .badFrame ∧
    decode (.command [0x30#8, 0x02#8, 0xAA#8]) = .error .badFrame ∧
    decode (.command [0x55#8, 0x28#8, 0x01#8, 0x00#8, 0x00#8, 0x00#8, 0x00#8, 0x00#8, 0x29#8, 0x04#8]) =
      .error .badOperand ∧
    decode (.wire 0xEC#8) = .error .reservedOpcode := by decide

/-- The opcode table's rows with operand bytes of zeros. -/
theorem test_decodeTableWord :
    decodeTableWord 8 0x01 = some .init ∧ decodeTableWord 8 0x20 = some (.writeByte 0x00#8) ∧
    decodeTableWord 8 0x30 = some (.crc8 []) ∧ decodeTableWord 8 0x50 = some (.matchRom 0#64) ∧
    decodeTableWord 8 0x55 = some (.setResolution 0#64 .r9) ∧
    decodeTableWord 8 0x60 = some (.formatTemperature 0#16) ∧ decodeTableWord 8 0xF0 = some .wireSearchRom ∧
    decodeTableWord 8 0x4E = some .wireWriteScratchpad ∧ decodeTableWord 8 0x03 = none := by decide

/-- From power-on the very next step takes the placed frame; INIT is the one command accepted there (R22). -/
theorem test_withFetchWord :
    (stepped (State.reset.withFetchWord 8 0x01)).init = true ∧
    (stepped (State.reset.withFetchWord 8 0x10)).marks = [.notInitialised] ∧
    (stepped (ready.withFetchWord 8 0xF0)).observations.length = 1 := by decide

/-! ### One step per instruction -/

/-- V-RST-1. -/
theorem test_init :
    statusWord (after .init { ready with
      searchState := .checksumMismatch, lastDiscrepancy := 62, err := .checksumMismatch, presence := true }) =
      0xFF80#16 := by decide

/-- V-STAT-1, the stuck-low second pass. -/
theorem test_readStatus :
    lastResult (after .readStatus { ready with
      searchState := .checksumMismatch, lastDiscrepancy := 62, err := .checksumMismatch, presence := true }) =
      some (.status 0x3EBC#16) := by decide

/-- V-ENC-1: READ_STATUS right after INIT. -/
theorem test_readStatus_frame :
    (lastResult (after .readStatus (after .init State.reset))).map encodeResult = some [0x00#8, 0x80#8, 0xFF#8] := by
  decide

/-- V-SLOT-1; and other delays reach the step (R29, R113). -/
theorem test_write1 :
    lastTrace (after .write1 ready) = some [.driveLow, .wait 6, .release, .wait 64] ∧
    lastTrace (after .write1 (withConfig { params with tA := 7, tB := 63 } ready)) =
      some [.driveLow, .wait 7, .release, .wait 63] := by decide

/-- V-SLOT-6. -/
theorem test_write1_before_init :
    (after .write1 State.reset).marks = [.notInitialised] ∧ (after .write1 State.reset).observations = [] := by decide

/-- V-SLOT-2. -/
theorem test_write0 : lastTrace (after .write0 ready) = some [.driveLow, .wait 60, .release, .wait 10] := by decide

/-- V-SLOT-3. -/
theorem test_readBit_one :
    lastTrace (after .readBit (drawing [true])) =
      some [.driveLow, .wait 6, .release, .wait 9, .sample true, .wait 55] := by decide
theorem test_readBit_zero : lastResult (after .readBit (drawing [false])) = some (.bit false) := by decide

/-- V-SLOT-4. -/
theorem test_reset_present :
    (after .reset (drawing [false])).presence = true ∧
    lastTrace (after .reset (drawing [false])) =
      some [.wait 0, .driveLow, .wait 480, .release, .wait 70, .sample false, .wait 410] := by decide
theorem test_reset_empty :
    lastResult (after .reset (drawing [true])) = some (.bool false) ∧
    (after .reset (drawing [true])).presence = false := by decide

/-- V-BYTE-1: 0xCC goes out as the bits 0 0 1 1 0 0 1 1. -/
theorem test_writeByte :
    (lastTrace (after (.writeByte 0xCC#8) ready)).map (·.take 12) =
      some [.driveLow, .wait 60, .release, .wait 10, .driveLow, .wait 60, .release, .wait 10,
        .driveLow, .wait 6, .release, .wait 64] := by decide

/-- V-BYTE-3. -/
theorem test_readByte :
    lastResult (after .readByte (drawing [true, false, false, true, true, false, false, false])) =
      some (.byte 0x19#8) := by decide +kernel

/-- V-BYTE-4. -/
theorem test_readByte_be :
    lastResult (after .readByte (drawing [false, true, true, true, true, true, false, true])) =
      some (.byte 0xBE#8) := by decide +kernel

/-- V-CRC-8. -/
theorem test_crc8 :
    lastResult (after (.crc8 [0x02#8, 0x1C#8, 0xB8#8, 0x01#8, 0x00#8, 0x00#8, 0x00#8]) ready) =
      some (.byte 0xA2#8) := by decide +kernel

/-- V-CRC-1, the check value of the bytes 31 to 39. -/
theorem test_crc8_check :
    crc8 params [0x31#8, 0x32#8, 0x33#8, 0x34#8, 0x35#8, 0x36#8, 0x37#8, 0x38#8, 0x39#8] = 0xA1#8 := by decide +kernel

/-- V-SRCH-9. -/
theorem test_startSearch :
    statusWord (after .startSearch { ready with searchState := .done }) = 0xFF81#16 := by decide

/-- V-SRCH-2, and V-SRCH-4's step 1: of three devices code C is first. -/
theorem test_searchStep :
    statusWord (after .searchStep (searchOn [])) = 0xFF93#16 ∧
    lastResult (after .searchStep (searchOn [])) = some (.outcome .noDevicePresent) ∧
    lastResult (after .searchStep (searchOn [device romA, device romB, device romC])) =
      some (.outcome (.found romC)) := by decide +kernel

/-- V-SRCH-5, step 2: with NEW_ONLY the second pass over A, B and C finds B and the search ends Done, with A never
found. V-CRC-3: under the reversed byte order code A fails its check. -/
theorem test_searchStep_config :
    lastResult (after .searchStep { withConfig { params with zeroRule := .newOnly }
      (searchOn [device romA, device romB, device romC]) with lastDiscrepancy := 9, romAcc := romC }) =
      some (.outcome (.found romB)) ∧
    (after .searchStep { withConfig { params with zeroRule := .newOnly }
      (searchOn [device romA, device romB, device romC]) with lastDiscrepancy := 9, romAcc := romC }).searchState =
      .done ∧
    lastResult (after .searchStep (withConfig { params with romCrcOrder := .reversed } (searchOn [device romA]))) =
      some (.outcome .checksumMismatch) := by decide +kernel

/-- V-SESS-1: the device is selected. -/
theorem test_matchRom :
    (after (.matchRom romA) (onBus [device romA])).env =
      .reference [{ device romA with phase := .funcCmd 0 0x00#8 }] := by decide +kernel

/-- V-SESS-3: the conversion begins with two polls to go. -/
theorem test_requestConversion :
    (after (.requestConversion romA) (onBus [device romA])).env =
      .reference [{ device romA with phase := .converting 2 }] := by decide +kernel

/-- V-SESS-3: the last poll answers true and renews the pad, 91 01 4B 46 7F FF 0C 10 70. -/
theorem test_pollConversionDone :
    lastResult (after (.pollConversionDone romA) (onBus [{ device romA with phase := .converting 0 }])) =
      some (.bool true) ∧
    (after (.pollConversionDone romA) (onBus [{ device romA with phase := .converting 0 }])).env =
      .reference [{ device romA with
        pad := ⟨0x91#8, 0x01#8, 0x4B#8, 0x46#8, 0x7F#8, 0xFF#8, 0x0C#8, 0x10#8, 0x70#8⟩, phase := .idle }] := by
  decide +kernel

/-- V-SESS-4. -/
theorem test_readScratchpad :
    lastResult (after (.readScratchpad romA) (onBus [device romA])) = some (.pad (.ok padP0)) := by decide +kernel

/-- V-SESS-5: byte 0 corrupted. -/
theorem test_readTemperature_corrupted :
    lastResult (after (.readTemperature romA)
      (onBus [{ device romA with pad := { padP0 with tlsb := 0x51#8 } }])) = some (.temp .checksumError) := by
  decide +kernel

/-- V-SESS-4. -/
theorem test_readTemperature :
    lastResult (after (.readTemperature romA) (onBus [device romA])) = some (.temp (.ok 0x0550#16)) := by
  decide +kernel

/-- V-SESS-6: the pad becomes 50 05 4B 46 1F FF 0C 10 8C. -/
theorem test_setResolution :
    (after (.setResolution romA .r9) (onBus [device romA])).env =
      .reference [{ device romA with
        pad := ⟨0x50#8, 0x05#8, 0x4B#8, 0x46#8, 0x1F#8, 0xFF#8, 0x0C#8, 0x10#8, 0x8C#8⟩, phase := .idle }] := by
  decide +kernel

/-- V-SESS-7. -/
theorem test_setResolution_empty :
    lastResult (after (.setResolution romA .r12) (onBus [])) = some (.bool false) := by decide +kernel

/-- V-FMT-3 as the spec settles it (90_conflicts.md C1): "-25.0625". -/
theorem test_formatTemperature :
    lastResult (after (.formatTemperature 0xFE6F#16) ready) =
      some (.text [0x2D#8, 0x32#8, 0x35#8, 0x2E#8, 0x30#8, 0x36#8, 0x32#8, 0x35#8]) := by decide

/-- V-FMT-5: the sign comes from the value, not from the whole part: "-0.5". -/
theorem test_formatTemperature_minus_half :
    formatTemperature 0xFFF8#16 = [0x2D#8, 0x30#8, 0x2E#8, 0x35#8] := by decide

/-- V-SRC-2: 0xF0 goes out as the bits 0 0 0 0 1 1 1 1. -/
theorem test_wireSearchRom :
    (lastTrace (after .wireSearchRom ready)).map slotCount = some 8 ∧ byteBits 0xF0#8 =
      [false, false, false, false, true, true, true, true] := by decide

/-- V-SRC-2: 0x55, 0x44, 0xBE and 0x4E in slot order. -/
theorem test_wire_bits :
    byteBits (wireByte .matchRom) = [true, false, true, false, true, false, true, false] ∧
    byteBits (wireByte .convertT) = [false, false, true, false, false, false, true, false] ∧
    byteBits (wireByte .readScratchpad) = [false, true, true, true, true, true, false, true] ∧
    byteBits (wireByte .writeScratchpad) = [false, true, true, true, false, false, true, false] := by decide

/-- V-CRC-3: under the reversed byte order neither K nor A passes. -/
theorem test_romOk_reversed :
    romOk params 0xA200000001B81C02#64 = true ∧
    romOk { params with romCrcOrder := .reversed } 0xA200000001B81C02#64 = false ∧
    romOk { params with romCrcOrder := .reversed } romA = false := by decide +kernel

/-- V-SRCH-5: under NEW_ONLY the retraced zero is not recorded. -/
theorem test_newOnly :
    nextLastZero .newOnly 9 0#64 8 false false (-1) = -1 ∧ nextLastZero .anyZero 9 0#64 8 false false (-1) = 8 := by
  decide

/-- R29: INIT binds the injected timing implementation; before it none is bound. -/
theorem test_init_binds :
    State.reset.timing = none ∧
    (after .init { State.reset with injected := ⟨500⟩ }).timing = some ⟨500⟩ := by decide

/-- R53, R61: the devices A, B and C, by family code and serial, have the codes of 95_test_vectors.md. -/
theorem test_validRom :
    validRom params 0x28#8 1#48 = romA ∧ validRom params 0x28#8 2#48 = romB ∧ validRom params 0x28#8 4#48 = romC ∧
    powerUpDevice params 0x28#8 1#48 padP0 0x0191#16 2 = device romA := by decide +kernel

/-- V-SESS-9. -/
theorem test_writeFrame :
    writeFrame params { padP0 with cfg := cfgByte params .r10 } = [0x4B#8, 0x46#8, 0x3F#8] ∧
    writeFrame { params with wsOrder := .cfgTlTh } { padP0 with cfg := cfgByte params .r10 } =
      [0x3F#8, 0x46#8, 0x4B#8] := by decide

/-- R96's examples. -/
theorem test_written :
    writtenCommand .byteList (.writeByte 0xCC#8) = "WRITEBYTE 0xCC" ∧
    writtenCommand .byteList (.matchRom romA) = "MATCH_ROM [28 01 00 00 00 00 00 29]" ∧
    writtenCommand .hexValue (.matchRom romA) = "MATCH_ROM 0x2900000000000128" ∧
    writtenCommand .byteList (.formatTemperature 0x0191#16) = "FORMAT_TEMPERATURE 0x0191" := by decide +kernel

/-- P5's first branch: the search of an empty bus ends the host program. -/
theorem test_hostRun :
    (hostRun [.command .init, .command .startSearch, .command .searchStep,
      .branchIf (.outcomeTag 0x02#8) 5, .command .write1, .command .readStatus, .halt] 10 0
      { State.reset with env := .reference [], config := { params with maxDevices := 2 } }).1 = .halted := by
  decide +kernel

/-- R304: the second code found under a cap of one device is the host's SearchOverflow. -/
theorem test_hostRun_overflow :
    (hostRun [.command .init, .command .startSearch, .command .searchStep, .command .searchStep, .halt] 10 0
      { State.reset with
        env := .reference [device romA, device romB], config := { params with maxDevices := 1 } }).1 =
      .searchOverflow := by decide +kernel

/-! ### Witnesses: a state and operands that meet the hypotheses of each statement -/

/-- INIT's statement and all those whose hypotheses are `s.init = true` in one clause and `s.init = false` in the
other: READ_STATUS, WRITE1, WRITE0, READBIT, RESET, WRITEBYTE, READBYTE, CRC8, START_SEARCH, MATCH_ROM,
REQUEST_CONVERSION, POLL_CONVERSION_DONE, READ_SCRATCHPAD, READ_TEMPERATURE, SET_RESOLUTION, FORMAT_TEMPERATURE. -/
theorem test_witness_init_clauses : ready.init = true ∧ State.reset.init = false := ⟨rfl, rfl⟩

/-- Their clauses on fixed draws: READBIT, RESET, MATCH_ROM, REQUEST_CONVERSION, POLL_CONVERSION_DONE (one draw),
WRITEBYTE and the wire bytes (none). -/
theorem test_witness_draw_clauses (b : Bool) (ds : List Bool) :
    (drawing (b :: ds)).init = true ∧ (drawing (b :: ds)).env = .draws (b :: ds) ∧ (drawing ds).env = .draws ds :=
  ⟨rfl, rfl, rfl⟩

/-- READBYTE's clause on fixed draws. -/
theorem test_witness_ReadByteAssemblesLsbFirst (ds : List Bool) :
    [true, false, false, true, true, false, false, false].length = 8 ∧
    (drawing ([true, false, false, true, true, false, false, false] ++ ds)).env =
      .draws ([true, false, false, true, true, false, false, false] ++ ds) := ⟨rfl, rfl⟩

/-- The draws of a read transaction (ReadScratchpadChecksFrame, ReadTemperatureReturnsRaw), and of a read and a
write transaction (SetResolutionWritesOrFailsClosed), with a frame that passes and one that fails its check. -/
theorem test_witness_pad_clauses (b c : Bool) (g : Scratchpad) (ds : List Bool) :
    (drawing (b :: ((padBytes g).flatMap byteBits ++ ds))).env = .draws (b :: ((padBytes g).flatMap byteBits ++ ds)) ∧
    (drawing (b :: ((padBytes g).flatMap byteBits ++ c :: ds))).env =
      .draws (b :: ((padBytes g).flatMap byteBits ++ c :: ds)) ∧
    crc8 params (padLeading padP0) = padP0.crc ∧
    crc8 params (padLeading { padP0 with tlsb := 0x51#8 }) ≠ { padP0 with tlsb := 0x51#8 }.crc :=
  ⟨rfl, rfl, by decide +kernel, by decide +kernel⟩

theorem test_witness_EncodedFrameDecodesBack :
    wellFormed (.crc8 []) = true ∧ wellFormed (.crc8 (List.replicate 255 0xFF#8)) = true ∧
    wellFormed (.setResolution romA .r12) = true ∧ wellFormed .wireConvertT = true := by decide +kernel

theorem test_witness_DecodedFrameIsCanonical :
    decode (.command [0x30#8, 0x01#8, 0xAA#8]) = .ok (.crc8 [0xAA#8]) ∧ decode (.wire 0xBE#8) = .ok .wireReadScratchpad :=
  ⟨rfl, rfl⟩

/-- The ends of every reserved range of R93, and the opcodes next to them. -/
theorem test_witness_ReservedOpcodeIsRefused :
    (waiting (.command [0x61#8, 0x00#8]) ready).port = .command (0x61#8 :: [0x00#8]) :: [] ∧
    (∀ v ∈ [0x00#8, 0x03#8, 0x0F#8, 0x14#8, 0x1F#8, 0x22#8, 0x2F#8, 0x31#8, 0x3F#8, 0x42#8, 0x4F#8, 0x56#8, 0x5F#8,
      0x61#8, 0xFF#8], decode (.command (v :: [0x00#8])) = .error .reservedOpcode) ∧
    (∀ v ∈ [0x01#8, 0x02#8, 0x10#8, 0x13#8, 0x20#8, 0x21#8, 0x30#8, 0x40#8, 0x41#8, 0x50#8, 0x55#8, 0x60#8],
      decode (.command (v :: [0x00#8])) ≠ .error .reservedOpcode) := by decide

/-- A length off by one for every format. -/
theorem test_witness_WrongFrameLengthIsRefused :
    (opcodeFormat .init = .n ∧ [0x00#8].length ≠ 0) ∧ (opcodeFormat .writeByte = .b ∧ ([] : List Byte).length ≠ 1) ∧
    (opcodeFormat .crc8 = .l ∧ ([] : List Byte).length ≠ 1 + (([] : List Byte).headD 0#8).toNat ∧
      [0x02#8, 0xAA#8].length ≠ 1 + ([0x02#8, 0xAA#8].headD 0#8).toNat) ∧
    (opcodeFormat .matchRom = .r ∧ (List.replicate 7 0x00#8).length ≠ 8) ∧
    (opcodeFormat .setResolution = .rs ∧ (List.replicate 10 0x00#8).length ≠ 9) ∧
    (opcodeFormat .formatTemperature = .t ∧ [0x91#8].length ≠ 2) := by decide

theorem test_witness_ResolutionOperandDecodes :
    0x04#8 &&& 0xFC#8 ≠ 0#8 ∧ 0xFF#8 &&& 0xFC#8 ≠ 0#8 ∧ 0x00#8 &&& 0xFC#8 = 0#8 ∧ 0x03#8 &&& 0xFC#8 = 0#8 := by decide

/-- One frame for each refusal of R309, and one that is performed. -/
theorem test_witness_RefusalsComeInOrder :
    (waiting (.command [0x13#8]) ready).port = .command [0x13#8] :: [] ∧
    refusalOf (.command [0x03#8]) State.reset = [.reservedOpcode] ∧
    refusalOf (.command [0x20#8]) State.reset = [.badFrame] ∧
    refusalOf (.command (0x55#8 :: (romBytes romA ++ [0x04#8]))) State.reset = [.badOperand] ∧
    refusalOf (.command [0x41#8]) State.reset = [.notInitialised] ∧
    refusalOf (.command [0x41#8]) ready = [.searchNotStarted] ∧ refusalOf (.command [0x13#8]) ready = [] := by decide

theorem test_witness_StepRunsDecodedInstruction :
    (waiting (.command [0x01#8]) State.reset).port = .command [0x01#8] :: [] ∧
    decode (.command [0x01#8]) = .ok .init := ⟨rfl, rfl⟩

theorem test_witness_StepWithoutFrameIsIdle : State.reset.port = [] := rfl

theorem test_witness_AcceptedCommandCompletes :
    Accepted .init State.reset ∧ Accepted .write1 ready ∧ Accepted .searchStep (searching []) :=
  ⟨.inl rfl, .inr ⟨rfl, by decide⟩, .inr ⟨rfl, by decide⟩⟩

theorem test_witness_CommandsNeedInit :
    (Instr.write1 ≠ .init ∧ State.reset.init = false) ∧ (∃ t, exec .write1 State.reset = .next t) ∧
    ∃ t, exec .init State.reset = .next t := ⟨⟨by decide, rfl⟩, ⟨_, rfl⟩, ⟨_, rfl⟩⟩

/-- HistoryOnlyGrows, ExecIgnoresHistory: one instruction performed, one refused. -/
theorem test_witness_history :
    (∃ t, exec .readBit (drawing [true]) = .next t) ∧ ∃ t, exec .readBit State.reset = .next t := ⟨⟨_, rfl⟩, ⟨_, rfl⟩⟩

/-- The invariant at both ends of the last discrepancy's range (StatusMirrorsState, StepKeepsInvariant). -/
theorem test_witness_inv_high : Inv { searching [] with lastDiscrepancy := 63, err := .checksumMismatch } :=
  ⟨by decide, by decide, by decide, rfl, by decide, by decide, rfl, ⟨rfl, rfl⟩, fun _ => rfl, rfl⟩

theorem test_witness_inv_done : Inv { searching [] with searchState := .done } :=
  ⟨by decide, by decide, by decide, rfl, by decide, by decide, rfl, ⟨rfl, rfl⟩, fun _ => rfl, rfl⟩

/-- With devices on the bus: A, B and C have valid codes (R61). -/
theorem test_witness_inv_devices : Inv (searchOn [device romA, device romB, device romC]) :=
  ⟨by decide, by decide, by decide, rfl, by decide, by decide, rfl, ⟨rfl, rfl⟩, fun _ => rfl, by decide +kernel⟩

/-- PowerOnMeetsInvariant's second clause. -/
theorem test_witness_PowerOnMeetsInvariant :
    ∀ d ∈ [powerUpDevice params 0x28#8 1#48 padP0 0x0191#16 2], ∃ family serial pad tempNext convPolls,
      d = powerUpDevice params family serial pad tempNext convPolls := by
  intro d hd
  exact ⟨_, _, _, _, _, List.mem_singleton.1 hd⟩

/-- ConfigurationIsConstant: INIT, another command, and a step. -/
theorem test_witness_ConfigurationIsConstant :
    (∃ t, exec .init State.reset = .next t) ∧ (∃ t, exec .write1 ready = .next t) ∧ ∃ t, step ready = .next t :=
  ⟨⟨_, rfl⟩, ⟨_, rfl⟩, ⟨_, rfl⟩⟩

/-- The timing implementation bound at INIT keeps its budget, whatever `JITTER_MAX` is. -/
theorem onTime_ready : OnTime ready := by
  simp [OnTime, keepsBudget, ready, exactTiming]

/-- The clauses over an empty reference bus (ReadBitReturnsSample, ResetDetectsPresence, ReadByteAssemblesLsbFirst,
PollReadsOneBit). -/
theorem test_witness_empty_bus_clauses : OnTime (onBus []) ∧ (onBus []).env = .reference [] := ⟨onTime_ready, rfl⟩

/-- The widths of R10 in the statements that name them. -/
theorem test_witness_widths (ds : List Bool) : FixedWidths (drawing ds).config ∧ FixedWidths (searching ds).config :=
  ⟨⟨rfl, rfl⟩, rfl, rfl⟩

/-- A step from a state that meets the invariant. -/
theorem test_witness_StepKeepsInvariant :
    Inv (waiting (.command [0x41#8]) (searchOn [])) ∧ ∃ t, step (waiting (.command [0x41#8]) (searchOn [])) = .next t :=
  ⟨⟨by decide, by decide, by decide, rfl, by decide, by decide, rfl, ⟨rfl, rfl⟩, fun _ => rfl, rfl⟩, ⟨_, rfl⟩⟩

/-- The first and the last bit of a string. -/
theorem test_witness_SingleBitFlipChangesCrc :
    0 < (padLeading padP0).length ∧ 0 < 8 ∧ 7 < (padLeading padP0).length ∧ 7 < 8 := by decide

theorem test_witness_SearchStepBeforeStartIsRefused : ready.init = true ∧ ready.searchState = .notStarted := ⟨rfl, rfl⟩

theorem test_witness_TerminalSearchStepReturnsTag :
    ({ ready with searchState := .done } : State).init = true ∧
    ({ ready with searchState := .done } : State).searchState = .done ∧
    ({ ready with searchState := .noDevicePresent } : State).searchState = .noDevicePresent ∧
    ({ ready with searchState := .checksumMismatch } : State).searchState = .checksumMismatch := by decide

theorem test_witness_SearchPassWithoutPresence (ds : List Bool) :
    ((searching (true :: ds)).init = true ∧ (searching (true :: ds)).searchState = .running ∧
      ∃ ds', (searching (true :: ds)).env = .draws (true :: ds') ∧ Env.draws ds = .draws ds') ∧
    (searchOn []).init = true ∧ (searchOn []).searchState = .running ∧ OnTime (searchOn []) ∧
    (searchOn []).env = .reference [] :=
  ⟨⟨rfl, rfl, ds, rfl, rfl⟩, rfl, rfl, onTime_ready, rfl⟩

/-- The abort at the first position and at the last. -/
theorem test_witness_SearchPassAbortsOnTwoOnes (ds : List Bool) :
    (([] : List (Bool × Bool)).length < 64 ∧
      (searching (false :: (pairSamples [] ++ true :: true :: ds))).env =
        .draws (false :: (pairSamples [] ++ true :: true :: ds))) ∧
    (List.replicate 63 (false, true)).length < 64 ∧
    (∀ b ∈ List.replicate 63 (false, true), b ≠ (true, true)) ∧
    (searching (false :: (pairSamples (List.replicate 63 (false, true)) ++ true :: true :: ds))).env =
      .draws (false :: (pairSamples (List.replicate 63 (false, true)) ++ true :: true :: ds)) :=
  ⟨⟨by decide, rfl⟩, by decide, by decide +kernel, rfl⟩

/-- A pass of discrepancies only (V-SRCH-7) and one without any; the same states meet the hypotheses under every other
configuration of the zero rule and the byte order. -/
theorem test_witness_FullSearchPassFollowsDiscrepancies (ds : List Bool) :
    ∀ b ∈ [(false, false), (true, false)],
      (List.replicate 64 b).length = 64 ∧ (∀ c ∈ List.replicate 64 b, c ≠ (true, true)) ∧
      (searching (false :: (pairSamples (List.replicate 64 b) ++ ds))).init = true ∧
      (searching (false :: (pairSamples (List.replicate 64 b) ++ ds))).searchState = .running ∧
      (searching (false :: (pairSamples (List.replicate 64 b) ++ ds))).env =
        .draws (false :: (pairSamples (List.replicate 64 b) ++ ds)) := by
  intro b hb
  refine ⟨List.length_replicate, ?_, rfl, rfl, rfl⟩
  revert b
  decide +kernel

theorem test_witness_SearchStateMovesAsListed :
    (Accepted .startSearch ready ∧ ∃ t, exec .startSearch ready = .next t) ∧
    (Accepted .searchStep (searchOn []) ∧ ∃ t, exec .searchStep (searchOn []) = .next t) ∧
    ¬Accepted .searchStep ready ∧ ∃ t, exec .searchStep ready = .next t :=
  ⟨⟨.inr ⟨rfl, by decide⟩, _, rfl⟩, ⟨.inr ⟨rfl, by decide⟩, _, rfl⟩, by simp [Accepted, ready, State.reset], _, rfl⟩

theorem test_witness_OtherCommandsKeepCursor :
    (∃ t, exec .reset (searching [false]) = .next t) ∧ Instr.reset ≠ .init ∧ Instr.reset ≠ .startSearch ∧
    Instr.reset ≠ .searchStep := ⟨⟨_, rfl⟩, by decide, by decide, by decide⟩

theorem test_witness_OneDeviceIsDiscovered :
    (searchOn [device romA]).init = true ∧ (searchOn [device romA]).searchState = .running ∧
    (searchOn [device romA]).lastDiscrepancy = -1 ∧ (searchOn [device romA]).env = .reference [device romA] ∧
    FixedWidths (searchOn [device romA]).config ∧ OnTime (searchOn [device romA]) ∧
    romOk (searchOn [device romA]).config (device romA).rom = true :=
  ⟨rfl, rfl, rfl, rfl, ⟨rfl, rfl⟩, onTime_ready, by decide +kernel⟩

theorem test_witness_SearchEnumeratesEveryDevice :
    (onBus [device romA, device romB, device romC]).init = true ∧
    (onBus [device romA, device romB, device romC]).env = .reference [device romA, device romB, device romC] ∧
    ([device romA, device romB, device romC].map (·.rom)).Nodup ∧
    (∀ d ∈ [device romA, device romB, device romC], romOk params d.rom = true) ∧
    FixedWidths params ∧ params.zeroRule = .anyZero ∧ (onBus [device romA, device romB, device romC]).config = params ∧
    OnTime (onBus [device romA, device romB, device romC]) ∧
    ∃ t, exec .startSearch (onBus [device romA, device romB, device romC]) = .next t :=
  ⟨rfl, rfl, by decide +kernel, by decide +kernel, ⟨rfl, rfl⟩, rfl, rfl, onTime_ready, _, rfl⟩

theorem test_witness_ResolutionReadsBack :
    (onBus [device romB, device romA]).init = true ∧
    (onBus [device romB, device romA]).env = .reference [device romB, device romA] ∧
    ([device romB, device romA].map (·.rom)).Nodup ∧ device romA ∈ [device romB, device romA] ∧
    padOk params (device romA).pad = true ∧ (onBus [device romB, device romA]).config = params ∧ FixedWidths params ∧
    params.wsOrder = .thTlCfg ∧ OnTime (onBus [device romB, device romA]) :=
  ⟨rfl, rfl, by decide +kernel, by decide +kernel, by decide +kernel, rfl, ⟨rfl, rfl⟩, rfl, onTime_ready⟩

theorem test_witness_EmptyBusReadsOnes :
    (onBus []).init = true ∧ (onBus []).env = .reference [] ∧ (onBus []).config = params ∧ OnTime (onBus []) :=
  ⟨rfl, rfl, rfl, onTime_ready⟩

theorem test_witness_WireBytesGoOutLsbFirst (ds : List Bool) :
    ready.init = true ∧ (drawing ds).env = .draws ds ∧
    (Instr.wireWriteScratchpad, 0x4E#8) ∈ [(Instr.wireSearchRom, 0xF0#8), (.wireMatchRom, 0x55#8),
      (.wireConvertT, 0x44#8), (.wireReadScratchpad, 0xBE#8), (.wireWriteScratchpad, 0x4E#8)] := ⟨rfl, rfl, by decide⟩

/-- Each way `S.err` is written: by a search step (cause 1), by INIT, and not (RESET). -/
theorem test_witness_OnlyFallibleCommandsWriteErr :
    (∃ t, exec .searchStep (searchOn []) = .next t ∧ t.err ≠ (searchOn []).err ∧ t.err = .noDevicePresent) ∧
    (∃ t, exec .init { ready with err := .checksumMismatch } = .next t ∧ t.err ≠ .checksumMismatch) ∧
    ∃ t, exec .reset { ready with err := .searchOverflow } = .next t ∧ t.err = .searchOverflow :=
  ⟨⟨_, rfl, by decide, rfl⟩, ⟨_, rfl, by decide⟩, ⟨_, rfl, rfl⟩⟩

theorem test_witness_OnlyResetSlotsWritePresence :
    ∃ t, exec .reset (drawing [false]) = .next t ∧ t.presence ≠ (drawing [false]).presence :=
  ⟨_, rfl, by decide⟩

/-- SamplesAreTakenReleased, SlotsPerCommandAreBounded (and CommandTimesAsTabled: the parameters have R9's values). -/
theorem test_witness_observed :
    (drawing [false]).config = params ∧ (searchOn []).config = params ∧ ready.config = params ∧
    (∃ t o, exec .reset (drawing [false]) = .next t ∧ t.observations = (drawing [false]).observations ++ [o]) ∧
    ∃ t o, exec .searchStep (searchOn []) = .next t ∧ t.observations = (searchOn []).observations ++ [o] :=
  ⟨rfl, rfl, rfl, ⟨_, _, rfl, rfl⟩, ⟨_, _, rfl, rfl⟩⟩

/-- CommandTimesAsTabled: one command of each kind of time, and a search step in a terminal state and on an
empty bus. -/
theorem test_witness_CommandTimesAsTabled :
    (∃ t r tr, exec .readStatus ready = .next t ∧ t.observations = ready.observations ++ [⟨.readStatus, r, tr⟩]) ∧
    (∃ t r tr, exec .write1 ready = .next t ∧ t.observations = ready.observations ++ [⟨.write1, r, tr⟩]) ∧
    (∃ t r tr, exec .reset ready = .next t ∧ t.observations = ready.observations ++ [⟨.reset, r, tr⟩]) ∧
    (∃ t r tr, exec (.writeByte 0xCC#8) ready = .next t ∧
      t.observations = ready.observations ++ [⟨.writeByte 0xCC#8, r, tr⟩]) ∧
    (∃ t r tr, exec .searchStep { ready with searchState := .done } = .next t ∧
      t.observations = ready.observations ++ [⟨.searchStep, r, tr⟩]) ∧
    (∃ t r tr, exec .searchStep (searchOn []) = .next t ∧ t.err = .noDevicePresent ∧
      t.observations = (searchOn []).observations ++ [⟨.searchStep, r, tr⟩]) ∧
    ∃ t r tr, exec .wireConvertT ready = .next t ∧ t.observations = ready.observations ++ [⟨.wireConvertT, r, tr⟩] :=
  ⟨⟨_, _, _, rfl, rfl⟩, ⟨_, _, _, rfl, rfl⟩, ⟨_, _, _, rfl, rfl⟩, ⟨_, _, _, rfl, rfl⟩, ⟨_, _, _, rfl, rfl⟩,
    ⟨_, _, _, rfl, rfl, rfl⟩, ⟨_, _, _, rfl, rfl⟩⟩

/-- CommandTimesAsTabled, for a session command. -/
theorem test_witness_session_times :
    (∃ t r tr, exec (.matchRom romA) ready = .next t ∧
      t.observations = ready.observations ++ [⟨.matchRom romA, r, tr⟩]) ∧
    ∃ t r tr, exec (.readScratchpad romA) ready = .next t ∧
      t.observations = ready.observations ++ [⟨.readScratchpad romA, r, tr⟩] := by
  constructor
  · simp only [exec, execMatchRom, command_next (s := ready) rfl, matchRom_eq]
    exact ⟨_, _, _, rfl, rfl⟩
  · simp only [exec, execReadScratchpad, command_next (s := ready) rfl, readScratchpadBody_eq]
    exact ⟨_, _, _, rfl, rfl⟩

end Sys2Proof.Tests
end

section
/-! SUPPORT. The scope's statements (00_scope.md): a step runs the instruction of the next frame, and a command that
is not refused completes. -/

namespace Sys2Proof.Proofs.Scope

open Sys2Proof.Machine Sys2Proof.Safety

/-- A waiting frame that decodes is taken off the port and performed (R16, R67). -/
theorem step_of_decode {s : State} {f : Frame} {rest : List Frame} {i : Instr} (hport : s.port = f :: rest)
    (hdecode : decode f = .ok i) : step s = exec i (takeFrame rest s) := by
  simp only [step, hport, hdecode]

/-- Settles O8: the step is `exec` at the state that `takeFrame` leaves. -/
theorem stepRunsDecodedInstruction : Obligations.StepRunsDecodedInstruction := by
  unfold Obligations.StepRunsDecodedInstruction
  intro s f rest i hport hdecode
  exact step_of_decode hport hdecode

/-- An accepted instruction answers `finishCommand` over a state `u` with the history of the state it started in: of
the three answers of `exec_cases` the refusal is excluded (R16, R310). -/
theorem exec_of_accepted {i : Instr} {s : State} (h : Accepted i s) :
    ∃ r u, exec i s = .next (finishCommand i r u) ∧ u.observations = s.observations ∧ u.marks = s.marks ∧
      u.port = s.port := by
  rcases exec_cases i s with ⟨rfl, hexec⟩ | ⟨hrefused, -⟩ | ⟨-, -, -, r, u, hkeeps, hexec⟩
  · exact ⟨_, _, hexec, rfl, rfl, rfl⟩
  · exact absurd h hrefused
  · exact ⟨r, u, hexec, hkeeps.observations, hkeeps.marks, hkeeps.port⟩

/-- Settles O11: `finishCommand` appends the one result with the one trace, and keeps marks and port. -/
theorem acceptedCommandCompletes : Obligations.AcceptedCommandCompletes := by
  unfold Obligations.AcceptedCommandCompletes
  intro i s h
  obtain ⟨r, u, hexec, hobservations, hmarks, hport⟩ := exec_of_accepted h
  exact ⟨r, u.trace, _, hexec, by rw [finishCommand_observations, hobservations], finishCommand_trace ..,
    hmarks, hport⟩

end Sys2Proof.Proofs.Scope
end

section
/-! SUPPORT. The statements on the state (10_state.md): what every instruction may write of `S`, the STATUS register,
and the invariant between commands. -/

namespace Sys2Proof.Proofs.CoreState

open Sys2Proof.Machine Sys2Proof.Safety

/-! ### What an instruction leaves of `S.init` and of the configuration (R22, R29, R61) -/

/-- What every instruction does alike: `S.init` and the bound timing implementation change by INIT alone, the rest of
the configuration and the ROM codes on the bus never, and no command is left part-way. -/
structure KeepsConfig (i : Instr) (s t : State) : Prop where
  init : t.init = true ↔ s.init = true ∨ i = .init
  config : t.config = s.config
  injected : t.injected = s.injected
  timing : t.timing = if i = .init then some s.injected else s.timing
  roms : envRoms t.env = envRoms s.env
  trace : s.trace = [] → t.trace = []

theorem not_accepted_ne_init {i : Instr} {s : State} (h : ¬Accepted i s) : i ≠ .init :=
  fun hi => h (.inl hi)

theorem exec_keepsConfig {i : Instr} {s t : State} (h : exec i s = .next t) : KeepsConfig i s t := by
  rcases exec_cases i s with ⟨rfl, he⟩ | ⟨hrefused, why, he⟩ | ⟨hi, hinit, -, r, u, hkeeps, he⟩ <;>
    obtain rfl := Host.Outcome.next.inj (he.symm.trans h)
  · exact ⟨by simp, rfl, rfl, rfl, rfl, fun _ => rfl⟩
  · have hi := not_accepted_ne_init hrefused
    exact ⟨by simp [hi], rfl, rfl, by simp [hi], rfl, id⟩
  · exact ⟨by simp [hkeeps.init, hinit], hkeeps.config, hkeeps.injected, by simp [hi, hkeeps.timing], hkeeps.roms,
      fun _ => rfl⟩

/-- Before INIT every other instruction is refused: the two refusals of SEARCH_STEP exclude each other (R22, R309). -/
theorem exec_before_init {i : Instr} {s : State} (hi : i ≠ .init) (h : s.init = false) :
    exec i s = .next (refuse .notInitialised s) := by
  by_cases hsearch : i = .searchStep
  · subst hsearch
    rw [execSearchStep_eq, if_neg (by simp [h]), command_refused h]
  · obtain ⟨body, -, he⟩ := exec_command i hi hsearch
    rw [he, command_refused h]

/-- Settles O12: `exec_before_init`, and the clause of `exec_keepsConfig` on `S.init`. -/
theorem commandsNeedInit : Obligations.CommandsNeedInit := by
  unfold Obligations.CommandsNeedInit
  exact ⟨fun i s hi hinit => exec_before_init hi hinit, fun i s t h => (exec_keepsConfig h).init, rfl⟩

/-- All that a step can do: nothing, a refusal by the decoder, or the instruction of the frame taken (R306, R341). -/
theorem step_cases {s t : State} (h : step s = .next t) :
    t = s ∨ (∃ rest why, t = refuse why (takeFrame rest s)) ∨ ∃ rest i, exec i (takeFrame rest s) = .next t := by
  cases hport : s.port with
  | nil =>
    simp only [step, hport] at h
    exact .inl (Host.Outcome.next.inj h).symm
  | cons f rest =>
    cases hdecode : decode f with
    | error why =>
      simp only [step, hport, hdecode] at h
      exact .inr (.inl ⟨rest, why, (Host.Outcome.next.inj h).symm⟩)
    | ok i => exact .inr (.inr ⟨rest, i, (Scope.step_of_decode hport hdecode).symm.trans h⟩)

theorem step_keeps_configuration {s t : State} (h : step s = .next t) :
    t.config = s.config ∧ t.injected = s.injected := by
  rcases step_cases h with rfl | ⟨rest, why, rfl⟩ | ⟨rest, i, hexec⟩
  · exact ⟨rfl, rfl⟩
  · exact ⟨rfl, rfl⟩
  · exact ⟨(exec_keepsConfig hexec).config, (exec_keepsConfig hexec).injected⟩

/-- Settles O17: the clauses of `exec_keepsConfig` on the configuration, for every instruction and every step. -/
theorem configurationIsConstant : Obligations.ConfigurationIsConstant := by
  unfold Obligations.ConfigurationIsConstant
  refine ⟨fun i s t h => ?_, fun s t h => step_keeps_configuration h, rfl, rfl⟩
  have hkeeps := exec_keepsConfig h
  exact ⟨hkeeps.config, hkeeps.injected, hkeeps.timing⟩

/-! ### What the instructions without a search leave of `S` (R24 to R28) -/

/-- The commands that read a scratchpad and check it (R230). -/
def ReadsScratchpad (i : Instr) : Prop :=
  (∃ rom, i = .readScratchpad rom) ∨ (∃ rom, i = .readTemperature rom) ∨ ∃ rom res, i = .setResolution rom res

/-- The session commands that open with the match transaction, and so with a reset slot (R220). -/
def MakesMatch (i : Instr) : Prop :=
  (∃ rom, i = .matchRom rom) ∨ (∃ rom, i = .requestConversion rom) ∨ ReadsScratchpad i

/-- An instruction that steps or starts no search keeps the cursor; it writes `S.presence` by a reset slot and `S.err`
by the check of a scratchpad only, and leaves a released line released. -/
structure KeepsS (i : Instr) (s t : State) : Prop where
  searchState : t.searchState = s.searchState
  lastDiscrepancy : t.lastDiscrepancy = s.lastDiscrepancy
  romAcc : t.romAcc = s.romAcc
  presence : t.presence = s.presence ∨ i = .reset ∨ MakesMatch i
  err : t.err = s.err ∨ (ReadsScratchpad i ∧ (t.err = .none ∨ t.err = .checksumMismatch))
  released : s.busDrive = .released → t.busDrive = .released

theorem KeepsS.refl (i : Instr) (s : State) : KeepsS i s s :=
  ⟨rfl, rfl, rfl, .inl rfl, .inl rfl, id⟩

theorem KeepsS.refuse (i : Instr) (why : RefuseReason) (s : State) : KeepsS i s (refuse why s) :=
  ⟨rfl, rfl, rfl, .inl rfl, .inl rfl, id⟩

/-- The frame of a command adds nothing to what its body writes of `S`. -/
theorem command_keepsS {i : Instr} {answer : State → Result} {after : State → State} {s t : State}
    (h : command i (fun u => (answer u, after u)) s = .next t) (hbody : ∀ u, KeepsS i u (after u)) : KeepsS i s t := by
  rcases command_cases h with ⟨-, rfl⟩ | ⟨-, rfl⟩
  · have hb := hbody (beginCommand s)
    exact ⟨hb.searchState, hb.lastDiscrepancy, hb.romAcc, hb.presence, hb.err, hb.released⟩
  · exact .refuse i _ s

section bodies

variable (i : Instr) (p : Params) (s : State)

theorem writeBit_keepsS (b : Bool) : KeepsS i s (writeBit p b s) := by
  rw [writeBit_eq]
  exact ⟨rfl, rfl, rfl, .inl rfl, .inl rfl, fun _ => rfl⟩

theorem slotRead_keepsS : KeepsS i s (slotRead p s).2 := by
  rw [slotRead_snd]
  exact ⟨rfl, rfl, rfl, .inl rfl, .inl rfl, fun _ => rfl⟩

theorem writeByte_keepsS (v : Byte) : KeepsS i s (writeByte p v s) := by
  rw [writeByte_eq]
  exact ⟨rfl, rfl, rfl, .inl rfl, .inl rfl, fun _ => rfl⟩

theorem sendWire_keepsS (c : WireCmd) : KeepsS i s (sendWire p c s) :=
  writeByte_keepsS i p s (wireByte c)

theorem readByte_keepsS : KeepsS i s (readByte p s).2 := by
  rw [readByte_eq]
  exact ⟨rfl, rfl, rfl, .inl rfl, .inl rfl, fun _ => rfl⟩

theorem slotReset_keepsS : KeepsS .reset s (slotReset p s).2 := by
  rw [slotReset_snd]
  exact ⟨rfl, rfl, rfl, .inr (.inl rfl), .inl rfl, fun _ => rfl⟩

variable {i}

theorem matchRom_keepsS (h : MakesMatch i) (rom : RomCode) : KeepsS i s (matchRom p rom s) := by
  rw [matchRom_eq]
  exact ⟨rfl, rfl, rfl, .inr (.inr h), .inl rfl, fun _ => rfl⟩

theorem requestConversionBody_keepsS (h : MakesMatch i) (rom : RomCode) :
    KeepsS i s (sendWire p .convertT (matchRom p rom s)) := by
  rw [sendWire, writeByte_eq, matchRom_eq]
  exact ⟨rfl, rfl, rfl, .inr (.inr h), .inl rfl, fun _ => rfl⟩

variable (h : ReadsScratchpad i)
include h

theorem readScratchpadBody_keepsS (rom : RomCode) : KeepsS i s (readScratchpadBody p rom s).2 := by
  rw [readScratchpadBody_eq]
  refine ⟨rfl, rfl, rfl, .inr (.inr (.inr (.inr h))), .inr ⟨h, ?_⟩, fun _ => rfl⟩
  dsimp only
  split <;> simp

theorem readTemperatureBody_keepsS (rom : RomCode) : KeepsS i s (readTemperatureBody p rom s).2 := by
  rw [readTemperatureBody_eq]
  refine ⟨rfl, rfl, rfl, .inr (.inr (.inr (.inr h))), .inr ⟨h, ?_⟩, fun _ => rfl⟩
  dsimp only
  split <;> simp

theorem setResolutionBody_keepsS (rom : RomCode) (res : Resolution) :
    KeepsS i s (setResolutionBody p rom res s).2 := by
  by_cases hpad : padOk p (padOf p rom s) = true
  · rw [setResolutionBody_ok res hpad, writeScratchpad_eq]
    exact ⟨rfl, rfl, rfl, .inr (.inr (.inr (.inr h))), .inr ⟨h, .inl rfl⟩, fun _ => rfl⟩
  · rw [setResolutionBody_fail res hpad]
    exact ⟨rfl, rfl, rfl, .inr (.inr (.inr (.inr h))), .inr ⟨h, .inr rfl⟩, fun _ => rfl⟩

end bodies

theorem exec_keepsS {i : Instr} {s t : State} (h : exec i s = .next t) (hinit : i ≠ .init)
    (hstart : i ≠ .startSearch) (hstep : i ≠ .searchStep) : KeepsS i s t := by
  cases i with
  | init => exact absurd rfl hinit
  | startSearch => exact absurd rfl hstart
  | searchStep => exact absurd rfl hstep
  | readStatus | crc8 _ | formatTemperature _ =>
    simp only [exec, execReadStatus, execCrc8, execFormatTemperature] at h
    exact command_keepsS h fun u => .refl _ u
  | write1 =>
    rw [exec, execWrite1] at h
    exact command_keepsS h fun u => writeBit_keepsS _ u.config u true
  | write0 =>
    rw [exec, execWrite0] at h
    exact command_keepsS h fun u => writeBit_keepsS _ u.config u false
  | readBit | pollConversionDone _ =>
    simp only [exec, execReadBit, execPollConversionDone] at h
    exact command_keepsS h fun u => slotRead_keepsS _ u.config u
  | reset =>
    rw [exec, execReset] at h
    exact command_keepsS h fun u => slotReset_keepsS u.config u
  | writeByte v8 =>
    rw [exec, execWriteByte] at h
    exact command_keepsS h fun u => writeByte_keepsS _ u.config u v8
  | readByte =>
    rw [exec, execReadByte] at h
    exact command_keepsS h fun u => readByte_keepsS _ u.config u
  | wireSearchRom | wireMatchRom | wireConvertT | wireReadScratchpad | wireWriteScratchpad =>
    simp only [exec, execWireSearchRom, execWireMatchRom, execWireConvertT, execWireReadScratchpad,
      execWireWriteScratchpad] at h
    exact command_keepsS h fun u => sendWire_keepsS _ u.config u _
  | matchRom rom =>
    rw [exec, execMatchRom] at h
    exact command_keepsS h fun u => matchRom_keepsS u.config u (.inl ⟨rom, rfl⟩) rom
  | requestConversion rom =>
    rw [exec, execRequestConversion] at h
    exact command_keepsS h fun u => requestConversionBody_keepsS u.config u (.inr (.inl ⟨rom, rfl⟩)) rom
  | readScratchpad rom =>
    rw [exec, execReadScratchpad] at h
    exact command_keepsS h fun u => readScratchpadBody_keepsS u.config u (.inl ⟨rom, rfl⟩) rom
  | readTemperature rom =>
    rw [exec, execReadTemperature] at h
    exact command_keepsS h fun u => readTemperatureBody_keepsS u.config u (.inr (.inl ⟨rom, rfl⟩)) rom
  | setResolution rom res =>
    rw [exec, execSetResolution] at h
    exact command_keepsS h fun u => setResolutionBody_keepsS u.config u (.inr (.inr ⟨rom, res, rfl⟩)) rom res

/-- Settles O37: the cursor clauses of `exec_keepsS`. -/
theorem otherCommandsKeepCursor : Obligations.OtherCommandsKeepCursor := by
  unfold Obligations.OtherCommandsKeepCursor
  intro i s t h hinit hstart hstep
  have hkeeps := exec_keepsS h hinit hstart hstep
  exact ⟨hkeeps.searchState, hkeeps.lastDiscrepancy, hkeeps.romAcc⟩

/-! ### What a search pass writes of `S` (R184 to R195) -/

/-- How a pass leaves the search state, the last discrepancy and the cause: no device answered (R184, R187), the code
failed its check (R194), or a code was found (R193, R195). -/
inductive PassEnds (p : Params) (s t : State) : Prop
  | noDevice (state : t.searchState = .noDevicePresent) (ld : t.lastDiscrepancy = s.lastDiscrepancy)
      (err : t.err = .noDevicePresent ∨ t.err = .noDeviceResponse)
  | mismatch (state : t.searchState = .checksumMismatch) (low : -1 ≤ t.lastDiscrepancy)
      (high : t.lastDiscrepancy < p.romBits) (err : t.err = .checksumMismatch)
  | found (state : t.searchState = if t.lastDiscrepancy = -1 then .done else s.searchState)
      (low : -1 ≤ t.lastDiscrepancy) (high : t.lastDiscrepancy < p.romBits) (err : t.err = .none)

/-- The positions of a pass leave the search state and the last discrepancy for its end, and the line released. -/
theorem passPositions_keep {p : Params} {s s' : State} {candidate : Option Int}
    (h : searchPositions p s.lastDiscrepancy p.romBits 0 (-1) (sendWire p .searchRom (slotReset p s).2) =
      (candidate, s')) :
    s'.searchState = s.searchState ∧ s'.lastDiscrepancy = s.lastDiscrepancy ∧ s'.busDrive = .released := by
  have hstart : KeepsS .reset s (sendWire p .searchRom (slotReset p s).2) := by
    rw [sendWire, writeByte_eq, slotReset_snd]
    exact ⟨rfl, rfl, rfl, .inr (.inl rfl), .inl rfl, fun _ => rfl⟩
  have hframe := searchPositions_frame p s.lastDiscrepancy p.romBits 0 (-1) (sendWire p .searchRom (slotReset p s).2)
  have hreleased := searchPositions_released p s.lastDiscrepancy p.romBits 0 (-1)
    (sendWire p .searchRom (slotReset p s).2) (by rw [sendWire, writeByte_eq])
  rw [h] at hframe hreleased
  exact ⟨(congrArg State.searchState hframe).trans hstart.searchState,
    (congrArg State.lastDiscrepancy hframe).trans hstart.lastDiscrepancy, hreleased⟩

theorem searchPass_ends (p : Params) (s : State) :
    PassEnds p s (searchPass p s).2 ∧ (searchPass p s).2.busDrive = .released := by
  rcases searchPass_cases p s with ⟨-, h⟩ | ⟨s', -, hpos, h⟩ | ⟨lz, s', -, hpos, h⟩
  · rw [h, slotReset_snd]
    exact ⟨.noDevice rfl rfl (.inl rfl), rfl⟩
  · obtain ⟨-, hld, hreleased⟩ := passPositions_keep hpos
    rw [h]
    exact ⟨.noDevice rfl hld (.inr rfl), hreleased⟩
  · obtain ⟨hstate, -, hreleased⟩ := passPositions_keep hpos
    have hrange : lz = -1 ∨ ((0 : Int) ≤ lz ∧ lz < 0 + p.romBits) :=
      searchPositions_lastZero p s.lastDiscrepancy p.romBits 0 (-1) _ (congrArg Prod.fst hpos)
    have hlow : -1 ≤ lz := by omega
    have hhigh : lz < p.romBits := by omega
    rw [h]
    rcases concludePass_cases p lz s' with ⟨-, hend⟩ | ⟨-, hend⟩ <;> rw [hend]
    · exact ⟨.found (hstate ▸ rfl) hlow hhigh rfl, hreleased⟩
    · exact ⟨.mismatch rfl hlow hhigh rfl, hreleased⟩

/-- Off a Running entry a search step writes nothing: it is refused or returns its terminal state's tag (R182, R183). -/
theorem searchStep_terminal (p : Params) {s : State} (hrunning : s.searchState ≠ .running)
    (hstarted : s.searchState ≠ .notStarted) : (searchStep p s).2 = s := by
  cases h : s.searchState with
  | notStarted => exact absurd h hstarted
  | running => exact absurd h hrunning
  | done | noDevicePresent | checksumMismatch => simp [searchStep, h]

theorem searchStep_running (p : Params) {s : State} (h : s.searchState = .running) :
    searchStep p s = searchPass p s := by
  simp [searchStep, h]

/-- All that a SEARCH_STEP writes of `S`: what a pass writes, or nothing. -/
theorem execSearchStep_writes {s t : State} (h : exec .searchStep s = .next t) :
    (s.init = true ∧ s.searchState = .running ∧ PassEnds s.config s t ∧ t.busDrive = .released) ∨
      (¬(s.init = true ∧ s.searchState = .running) ∧ KeepsS .searchStep s t) := by
  rw [execSearchStep_eq] at h
  split at h
  case isTrue hrefused =>
    obtain rfl := Host.Outcome.next.inj h
    exact .inr ⟨by simp [hrefused], .refuse _ _ s⟩
  case isFalse hnot =>
    rcases command_cases h with ⟨hinit, rfl⟩ | ⟨hinit, rfl⟩
    · have hstarted : s.searchState ≠ .notStarted := fun hs => hnot ⟨hinit, hs⟩
      by_cases hrunning : s.searchState = .running
      · left
        dsimp only
        rw [searchStep_running _ (s := beginCommand s) hrunning]
        obtain ⟨hends, hreleased⟩ := searchPass_ends s.config (beginCommand s)
        refine ⟨hinit, hrunning, ?_, hreleased⟩
        cases hends with
        | noDevice state ld err => exact .noDevice state ld err
        | mismatch state low high err => exact .mismatch state low high err
        | found state low high err => exact .found state low high err
      · right
        dsimp only
        rw [searchStep_terminal _ (s := beginCommand s) hrunning hstarted]
        exact ⟨fun hr => hrunning hr.2, rfl, rfl, rfl, .inl rfl, .inl rfl, id⟩
    · exact .inr ⟨by simp [hinit], .refuse _ _ s⟩

/-! ### All that an instruction can write of `S` -/

/-- The instructions that write the cursor where they are accepted (R23 to R25). -/
def WritesCursor (i : Instr) (s : State) : Prop :=
  i = .init ∨ i = .startSearch ∨ (i = .searchStep ∧ s.searchState = .running)

theorem exec_writes {i : Instr} {s t : State} (h : exec i s = .next t) :
    (i = .init ∧ t = finishCommand .init .unit (bindTiming (initialiseCore (beginCommand s)))) ∨
    (i = .startSearch ∧ s.init = true ∧ t = finishCommand .startSearch .unit (startCursor (beginCommand s))) ∨
    (i = .searchStep ∧ s.init = true ∧ s.searchState = .running ∧ PassEnds s.config s t ∧ t.busDrive = .released) ∨
    (¬(Accepted i s ∧ WritesCursor i s) ∧ KeepsS i s t) := by
  by_cases hinit : i = .init
  · subst hinit
    exact .inl ⟨rfl, (Host.Outcome.next.inj h).symm⟩
  by_cases hstart : i = .startSearch
  · subst hstart
    rw [exec, execStartSearch] at h
    rcases command_cases h with ⟨hs, ht⟩ | ⟨hs, rfl⟩
    · exact .inr (.inl ⟨rfl, hs, ht⟩)
    · exact .inr (.inr (.inr ⟨by simp [Accepted, hs], .refuse _ _ s⟩))
  by_cases hstep : i = .searchStep
  · subst hstep
    rcases execSearchStep_writes h with hpass | ⟨hnot, hkeeps⟩
    · exact .inr (.inr (.inl ⟨rfl, hpass⟩))
    · exact .inr (.inr (.inr ⟨by simp_all [Accepted, WritesCursor], hkeeps⟩))
  · exact .inr (.inr (.inr ⟨by simp [WritesCursor, hinit, hstart, hstep], exec_keepsS h hinit hstart hstep⟩))

/-- R32's table lets the state stand at every accepted instruction that does not write the cursor. -/
theorem searchTransition_stays {i : Instr} {s : State} (ha : Accepted i s) (hw : ¬WritesCursor i s) :
    SearchTransition i s.searchState s.searchState := by
  cases i with
  | init => exact absurd (.inl rfl) hw
  | startSearch => exact absurd (.inr (.inl rfl)) hw
  | searchStep =>
    cases hstate : s.searchState <;> simp_all [Accepted, WritesCursor, SearchTransition]
  | _ => rfl

/-- A pass moves the search state along a pair of R32's table. -/
theorem PassEnds.searchTransition {p : Params} {s t : State} (h : PassEnds p s t) (hs : s.searchState = .running) :
    SearchTransition .searchStep s.searchState t.searchState := by
  refine .inl ⟨hs, ?_⟩
  cases h with
  | noDevice state _ _ => simp [state]
  | mismatch state _ _ _ => simp [state]
  | found state _ _ _ =>
    rw [state, hs]
    split <;> simp

/-- Settles O36, by the four cases of `exec_writes`; the first three are accepted. -/
theorem searchStateMovesAsListed : Obligations.SearchStateMovesAsListed := by
  unfold Obligations.SearchStateMovesAsListed
  intro i s t h
  rcases exec_writes h with ⟨rfl, rfl⟩ | ⟨rfl, hinit, rfl⟩ | ⟨rfl, hinit, hrunning, hends, -⟩ | ⟨hnot, hkeeps⟩
  · exact ⟨fun _ => rfl, fun hr => absurd (.inl rfl) hr⟩
  · exact ⟨fun _ => rfl, fun hr => absurd (.inr ⟨hinit, nofun⟩) hr⟩
  · exact ⟨fun _ => hends.searchTransition hrunning,
      fun hr => absurd (.inr ⟨hinit, fun _ => by simp [hrunning]⟩) hr⟩
  · rw [hkeeps.searchState]
    exact ⟨fun ha => searchTransition_stays ha fun hw => hnot ⟨ha, hw⟩, fun _ => rfl⟩

/-- A pass writes one of the causes 0 to 3 (R27). -/
theorem PassEnds.err_ne_searchOverflow {p : Params} {s t : State} (h : PassEnds p s t) : t.err ≠ .searchOverflow := by
  cases h with
  | noDevice _ _ err => rcases err with err | err <;> simp [err]
  | mismatch _ _ _ err => simp [err]
  | found _ _ _ err => simp [err]

/-- Settles O56, by the four cases of `exec_writes`. -/
theorem onlyFallibleCommandsWriteErr : Obligations.OnlyFallibleCommandsWriteErr := by
  unfold Obligations.OnlyFallibleCommandsWriteErr
  intro i s t h
  rcases exec_writes h with ⟨rfl, rfl⟩ | ⟨rfl, -, rfl⟩ | ⟨rfl, -, hrunning, hends, -⟩ | ⟨-, hkeeps⟩
  · exact ⟨fun _ => .inl rfl, nofun, by simp⟩
  · exact ⟨fun hne => absurd rfl hne, id, fun _ hne => absurd rfl hne⟩
  · exact ⟨fun _ => .inr (.inl ⟨rfl, hrunning⟩), fun ho => absurd ho hends.err_ne_searchOverflow, fun _ _ => rfl⟩
  · rcases hkeeps.err with herr | ⟨hreads, herr | herr⟩
    · exact ⟨fun hne => absurd herr hne, herr.symm.trans, fun _ hne => absurd herr hne⟩
    · exact ⟨fun _ => .inr (.inr hreads), by simp [herr], by simp [herr]⟩
    · exact ⟨fun _ => .inr (.inr hreads), by simp [herr], by simp [herr]⟩

/-- Settles O57, by the four cases of `exec_writes`. -/
theorem onlyResetSlotsWritePresence : Obligations.OnlyResetSlotsWritePresence := by
  unfold Obligations.OnlyResetSlotsWritePresence
  intro i s t h hne
  rcases exec_writes h with ⟨rfl, -⟩ | ⟨-, -, rfl⟩ | ⟨rfl, -, hrunning, -⟩ | ⟨-, hkeeps⟩
  · exact .inl rfl
  · exact absurd rfl hne
  · exact .inr (.inr (.inl ⟨rfl, hrunning⟩))
  · rcases hkeeps.presence with hsame | hreset | hmatch
    · exact absurd hsame hne
    · exact .inr (.inl hreset)
    · exact .inr (.inr (.inr hmatch))

/-! ### The invariant (R35, R10, R29, R61) -/

/-- The invariant speaks of no frame that waits and of no mark. -/
theorem inv_takeFrame {s : State} (h : Inv s) (rest : List Frame) : Inv (takeFrame rest s) :=
  ⟨h.ldLow, h.ldHigh, h.doneLd, h.released, h.startedInit, h.errCore, h.noTrace, h.widths, h.bound, h.validRoms⟩

theorem inv_refuse {s : State} (h : Inv s) (why : RefuseReason) : Inv (refuse why s) :=
  ⟨h.ldLow, h.ldHigh, h.doneLd, h.released, h.startedInit, h.errCore, h.noTrace, h.widths, h.bound, h.validRoms⟩

/-- The clauses of the invariant on the cursor, the cause and the drive state, which the cases of `exec_writes` give. -/
structure CursorInv (t : State) : Prop where
  ldLow : -1 ≤ t.lastDiscrepancy
  ldHigh : t.lastDiscrepancy ≤ 63
  doneLd : t.searchState = .done → t.lastDiscrepancy = -1
  released : t.busDrive = .released
  errCore : t.err ≠ .searchOverflow

/-- A pass over 64 positions leaves a last discrepancy of -1 to 63, and Done with -1 only (R193). -/
theorem PassEnds.cursorInv {s t : State} (h : PassEnds s.config s t) (hs : Inv s) (hrunning : s.searchState = .running)
    (hreleased : t.busDrive = .released) : CursorInv t := by
  have hbits : (s.config.romBits : Int) = 64 := congrArg Nat.cast hs.widths.1
  have herr := h.err_ne_searchOverflow
  cases h with
  | noDevice state ld _ => exact ⟨ld ▸ hs.ldLow, ld ▸ hs.ldHigh, by simp [state], hreleased, herr⟩
  | mismatch state low high _ => exact ⟨low, by omega, by simp [state], hreleased, herr⟩
  | found state low high _ => exact ⟨low, by omega, by simp [state, hrunning], hreleased, herr⟩

/-- What keeps `S` keeps the clauses on it. -/
theorem KeepsS.cursorInv {i : Instr} {s t : State} (h : KeepsS i s t) (hs : Inv s) : CursorInv t where
  ldLow := h.lastDiscrepancy ▸ hs.ldLow
  ldHigh := h.lastDiscrepancy ▸ hs.ldHigh
  doneLd hdone := h.lastDiscrepancy.trans (hs.doneLd (h.searchState.symm.trans hdone))
  released := h.released hs.released
  errCore := by
    rcases h.err with herr | ⟨-, herr | herr⟩
    · exact herr ▸ hs.errCore
    · simp [herr]
    · simp [herr]

theorem exec_cursorInv {i : Instr} {s t : State} (hs : Inv s) (h : exec i s = .next t) : CursorInv t := by
  rcases exec_writes h with ⟨-, rfl⟩ | ⟨-, -, rfl⟩ | ⟨-, -, hrunning, hends, hreleased⟩ | ⟨-, hkeeps⟩
  · exact ⟨by simp, by simp, by simp, rfl, by simp⟩
  · exact ⟨by simp, by simp, by simp, hs.released, hs.errCore⟩
  · exact hends.cursorInv hs hrunning hreleased
  · exact hkeeps.cursorInv hs

/-- No instruction starts a search while `S.init` stays false (R22, R35). -/
theorem exec_startedInit {i : Instr} {s t : State} (hs : Inv s) (h : exec i s = .next t)
    (hstarted : t.searchState ≠ .notStarted) : t.init = true := by
  rw [(exec_keepsConfig h).init]
  rcases exec_writes h with ⟨hi, -⟩ | ⟨-, hinit, -⟩ | ⟨-, hinit, -⟩ | ⟨-, hkeeps⟩
  · exact .inr hi
  · exact .inl hinit
  · exact .inl hinit
  · exact .inl (hs.startedInit (hkeeps.searchState ▸ hstarted))

/-- Where `S.init` is true the injected timing implementation is bound: by INIT now, or since before (R29). -/
theorem exec_bound {i : Instr} {s t : State} (hs : Inv s) (h : exec i s = .next t) (hinit : t.init = true) :
    t.timing = some t.injected := by
  have hkeeps := exec_keepsConfig h
  rw [hkeeps.timing, hkeeps.injected]
  split
  case isTrue => rfl
  case isFalse hi => exact hs.bound ((hkeeps.init.1 hinit).resolve_right hi)

theorem exec_keeps_inv {i : Instr} {s t : State} (hs : Inv s) (h : exec i s = .next t) : Inv t := by
  have hcursor := exec_cursorInv hs h
  have hkeeps := exec_keepsConfig h
  exact
    { ldLow := hcursor.ldLow
      ldHigh := hcursor.ldHigh
      doneLd := hcursor.doneLd
      released := hcursor.released
      startedInit := exec_startedInit hs h
      errCore := hcursor.errCore
      noTrace := hkeeps.trace hs.noTrace
      widths := by rw [hkeeps.config]; exact hs.widths
      bound := exec_bound hs h
      validRoms := by rw [hkeeps.config, envWf_eq, hkeeps.roms, ← envWf_eq]; exact hs.validRoms }

/-- Settles O54, by the cases of `step`: idle, refused by the decoder, or `exec_keeps_inv`. -/
theorem stepKeepsInvariant : Obligations.StepKeepsInvariant := by
  unfold Obligations.StepKeepsInvariant
  intro s t hs h
  rcases step_cases h with rfl | ⟨rest, why, rfl⟩ | ⟨rest, i, hexec⟩
  · exact hs
  · exact inv_refuse (inv_takeFrame hs rest) why
  · exact exec_keeps_inv (inv_takeFrame hs rest) hexec

/-- The reset state meets the invariant on any bus whose ROM codes are valid. -/
theorem inv_reset {env : Env} (h : envWf params env = true) : Inv { State.reset with env := env } :=
  ⟨le_rfl, show (-1 : Int) ≤ 63 by decide, nofun, rfl, fun hstarted => absurd rfl hstarted, nofun, rfl,
    ⟨rfl, rfl⟩, nofun, h⟩

/-- Settles O55: a device at power-up has a code made by `validRom` (R53). -/
theorem powerOnMeetsInvariant : Obligations.PowerOnMeetsInvariant := by
  unfold Obligations.PowerOnMeetsInvariant
  refine ⟨inv_reset rfl, fun devices hdevices => inv_reset (List.all_eq_true.2 fun d hd => ?_)⟩
  obtain ⟨family, serial, pad, tempNext, convPolls, rfl⟩ := hdevices d hd
  exact romWf_powerUpDevice ..

/-! ### STATUS (R31) -/

section status

variable (s : State)

theorem statusWord_searchState : (statusWord s).extractLsb' 0 3 = searchStateCode s.searchState :=
  BitVec.extractLsb'_append_eq_right

theorem statusWord_presence : (statusWord s).getLsbD 3 = s.presence := by
  rw [statusWord, BitVec.getLsbD_append, BitVec.getLsbD_append]
  simp

theorem statusWord_err : (statusWord s).extractLsb' 4 3 = errCode s.err := by
  rw [statusWord, BitVec.extractLsb'_append_eq_of_le (by decide), BitVec.extractLsb'_append_eq_of_le (by decide)]
  exact BitVec.extractLsb'_append_eq_right

theorem statusWord_init : (statusWord s).getLsbD 7 = s.init := by
  rw [statusWord, BitVec.getLsbD_append, BitVec.getLsbD_append, BitVec.getLsbD_append, BitVec.getLsbD_append]
  simp

theorem statusWord_lastDiscrepancy : (statusWord s).extractLsb' 8 8 = BitVec.ofInt 8 s.lastDiscrepancy := by
  rw [statusWord, BitVec.extractLsb'_append_eq_of_le (by decide), BitVec.extractLsb'_append_eq_of_le (by decide),
    BitVec.extractLsb'_append_eq_of_le (by decide)]
  exact BitVec.extractLsb'_append_eq_left

end status

/-- Settles O19: STATUS is its fields put side by side, and a last discrepancy of -1 to 63 fits its eight bits. -/
theorem statusMirrorsState : Obligations.StatusMirrorsState := by
  unfold Obligations.StatusMirrorsState
  refine ⟨fun s => ⟨?_, statusWord_presence s, ?_, statusWord_init s⟩, fun s hs => ⟨?_, ?_, ?_⟩, fun _ _ => rfl, rfl⟩
  · rw [statusWord_searchState]
    cases s.searchState <;> rfl
  · rw [statusWord_err]
    cases s.err <;> rfl
  · have hlow := hs.ldLow
    have hhigh := hs.ldHigh
    rw [statusWord_lastDiscrepancy, BitVec.toInt_ofInt, Int.bmod_eq_of_le] <;> omega
  · rw [statusWord_searchState]
    cases s.searchState <;> decide
  · have herr := hs.errCore
    rw [statusWord_err]
    cases h : s.err with
    | searchOverflow => exact absurd h herr
    | none | noDevicePresent | noDeviceResponse | checksumMismatch => decide

end Sys2Proof.Proofs.CoreState
end

section
/-! SUPPORT. The statements on memory and the bus environment (20_memory.md): a run's history only grows and nothing
reads it, and what an empty reference bus answers. -/

namespace Sys2Proof.Proofs.Memory

open Sys2Proof.Machine Sys2Proof.Safety

/-! ### What an instruction adds to the history (R70, R306) -/

/-- Settles O13, by the three answers of `exec_cases`: INIT and an accepted command end in `finishCommand`, which
appends the observation, and `refuse` appends the mark. -/
theorem historyOnlyGrows : Obligations.HistoryOnlyGrows := by
  unfold Obligations.HistoryOnlyGrows
  intro i s t h
  rcases exec_cases i s with ⟨rfl, hexec⟩ | ⟨-, why, hexec⟩ | ⟨-, -, -, r, u, hkeeps, hexec⟩ <;>
    obtain rfl := Host.Outcome.next.inj (hexec.symm.trans h)
  · exact ⟨rfl, .inl ⟨_, rfl, rfl, rfl⟩⟩
  · exact ⟨rfl, .inr ⟨why, rfl, rfl⟩⟩
  · have hobservations : (finishCommand i r u).observations = s.observations ++ [⟨i, r, u.trace⟩] := by
      rw [finishCommand_observations, hkeeps.observations, beginCommand_observations]
    exact ⟨hkeeps.port, .inl ⟨_, hobservations, rfl, hkeeps.marks⟩⟩

/-! ### No instruction reads the history (R59, R67, R70)

An instruction run after some history does what it does without it, and the history stands in front of what it adds. -/

/-- What stands around a command in a run: the frames that wait, the past observations and the past marks. -/
structure History where
  port : List Frame
  observations : List Observation
  marks : List RefuseReason

/-- `s` later in a run: with these frames waiting, and after these observations and marks. -/
def afterHistory (h : History) (s : State) : State :=
  { s with
    port := h.port
    observations := h.observations ++ s.observations
    marks := h.marks ++ s.marks }

/-- The history of a state. -/
def historyOf (s : State) : History := ⟨s.port, s.observations, s.marks⟩

/-- A state with no history. -/
def withoutHistory (s : State) : State := { s with port := [], observations := [], marks := [] }

theorem afterHistory_historyOf (s : State) : afterHistory (historyOf s) (withoutHistory s) = s := by
  simp [afterHistory, historyOf, withoutHistory]

/-- An operation with a result gives the same result after any history, and hands the history on. -/
def IgnoresHistory {α : Type} (op : State → α × State) : Prop :=
  ∀ h s, op (afterHistory h s) = ((op s).1, afterHistory h (op s).2)

section operations

variable (p : Params) (h : History) (s : State)

@[simp] theorem afterHistory_init : (afterHistory h s).init = s.init := rfl
@[simp] theorem afterHistory_searchState : (afterHistory h s).searchState = s.searchState := rfl
@[simp] theorem afterHistory_lastDiscrepancy : (afterHistory h s).lastDiscrepancy = s.lastDiscrepancy := rfl
@[simp] theorem afterHistory_romAcc : (afterHistory h s).romAcc = s.romAcc := rfl
@[simp] theorem afterHistory_timing : (afterHistory h s).timing = s.timing := rfl
@[simp] theorem afterHistory_env : (afterHistory h s).env = s.env := rfl
@[simp] theorem afterHistory_sampleCount : (afterHistory h s).sampleCount = s.sampleCount := rfl

theorem finishCommand_afterHistory (i : Instr) (r : Result) :
    finishCommand i r (afterHistory h s) = afterHistory h (finishCommand i r s) := by
  simp [finishCommand, afterHistory]

theorem refuse_afterHistory (why : RefuseReason) :
    refuse why (afterHistory h s) = afterHistory h (refuse why s) := by
  simp [refuse, afterHistory]

theorem slotRead_ignoresHistory : IgnoresHistory (slotRead p) := fun h s => by
  have hbit : (slotRead p (afterHistory h s)).1 = (slotRead p s).1 := by
    simp only [slotRead_fst, afterHistory_timing, afterHistory_env, afterHistory_sampleCount]
  refine Prod.ext hbit ?_
  rw [slotRead_snd, hbit, slotRead_snd]
  rfl

theorem slotReset_ignoresHistory : IgnoresHistory (slotReset p) := fun h s => by
  have hbit : (slotReset p (afterHistory h s)).1 = (slotReset p s).1 := by
    simp only [slotReset_fst, afterHistory_timing, afterHistory_env, afterHistory_sampleCount]
  refine Prod.ext hbit ?_
  rw [slotReset_snd, hbit, slotReset_snd]
  rfl

theorem writeBit_afterHistory (b : Bool) : writeBit p b (afterHistory h s) = afterHistory h (writeBit p b s) := by
  rw [writeBit_eq, writeBit_eq]
  rfl

theorem writeByte_afterHistory (v : Byte) : writeByte p v (afterHistory h s) = afterHistory h (writeByte p v s) := by
  rw [writeByte_eq, writeByte_eq]
  rfl

theorem sendWire_afterHistory (c : WireCmd) : sendWire p c (afterHistory h s) = afterHistory h (sendWire p c s) :=
  writeByte_afterHistory p h s (wireByte c)

theorem readByte_ignoresHistory : IgnoresHistory (readByte p) := fun h s => by
  rw [readByte_eq, readByte_eq]
  rfl

theorem matchRom_afterHistory (rom : RomCode) :
    matchRom p rom (afterHistory h s) = afterHistory h (matchRom p rom s) := by
  rw [matchRom_eq, matchRom_eq]
  rfl

theorem writeBytes_afterHistory (vs : List Byte) :
    writeBytes p vs (afterHistory h s) = afterHistory h (writeBytes p vs s) := by
  induction vs generalizing s with
  | nil => rfl
  | cons v vs ih => rw [writeBytes, writeByte_afterHistory, ih, writeBytes]

theorem requestConversion_afterHistory (rom : RomCode) :
    sendWire p .convertT (matchRom p rom (afterHistory h s)) =
      afterHistory h (sendWire p .convertT (matchRom p rom s)) := by
  rw [matchRom_afterHistory, sendWire_afterHistory]

theorem writeScratchpad_afterHistory (rom : RomCode) (f : Scratchpad) :
    writeScratchpad p rom f (afterHistory h s) = afterHistory h (writeScratchpad p rom f s) := by
  simp only [writeScratchpad, matchRom_afterHistory, sendWire_afterHistory, writeBytes_afterHistory]

theorem fetchedBytes_afterHistory (rom : RomCode) : fetchedBytes p rom (afterHistory h s) = fetchedBytes p rom s := by
  simp only [fetchedBytes, afterHistory_timing, afterHistory_env, afterHistory_sampleCount]

theorem readScratchpad_ignoresHistory (rom : RomCode) : IgnoresHistory (readScratchpad p rom) := fun h s => by
  have hpad : padOf p rom (afterHistory h s) = padOf p rom s :=
    congrArg decodeFrame (fetchedBytes_afterHistory p h s rom)
  rw [readScratchpad_eq, readScratchpad_eq, hpad, fetchedBytes_afterHistory]
  rfl

theorem readScratchpadBody_ignoresHistory (rom : RomCode) : IgnoresHistory (readScratchpadBody p rom) := fun h s => by
  simp only [readScratchpadBody, readScratchpad_ignoresHistory p rom h s]
  rcases readScratchpad p rom s with ⟨_ | _, u⟩
  · rfl
  · rfl

theorem readTemperatureBody_ignoresHistory (rom : RomCode) : IgnoresHistory (readTemperatureBody p rom) := fun h s => by
  simp only [readTemperatureBody, readScratchpad_ignoresHistory p rom h s]
  rcases readScratchpad p rom s with ⟨_ | _, u⟩
  · rfl
  · rfl

theorem setResolutionBody_ignoresHistory (rom : RomCode) (res : Resolution) :
    IgnoresHistory (setResolutionBody p rom res) := fun h s => by
  simp only [setResolutionBody, readScratchpad_ignoresHistory p rom h s]
  rcases readScratchpad p rom s with ⟨f | _, u⟩
  · dsimp only
    rw [writeScratchpad_afterHistory]
    rfl
  · rfl

theorem searchPositions_ignoresHistory (ld : Int) (n i : Nat) (lz : Int) :
    IgnoresHistory (searchPositions p ld n i lz) := fun h s => by
  induction n generalizing i lz s with
  | zero => rfl
  | succ n ih =>
    have hwrite (dir : Bool) (u : State) :
        writeDirection p i dir (afterHistory h u) = afterHistory h (writeDirection p i dir u) := by
      rw [writeDirection, writeBit_afterHistory]
      rfl
    simp only [searchPositions, slotRead_ignoresHistory p h]
    split
    case isTrue => rfl
    case isFalse => exact (congrArg _ (hwrite _ _)).trans (ih ..)

theorem concludePass_ignoresHistory (lz : Int) : IgnoresHistory (concludePass p lz) := fun h s => by
  cases hok : romOk p s.romAcc with
  | false =>
    simp only [concludePass, afterHistory_romAcc, hok]
    rfl
  | true =>
    simp only [concludePass, afterHistory_romAcc, hok]
    rfl

theorem searchPass_ignoresHistory : IgnoresHistory (searchPass p) := fun h s => by
  simp only [searchPass, slotReset_ignoresHistory p h, sendWire_afterHistory, afterHistory_lastDiscrepancy,
    searchPositions_ignoresHistory p _ _ _ _ h]
  split
  case isFalse => rfl
  case isTrue =>
    rcases searchPositions p s.lastDiscrepancy p.romBits 0 (-1) (sendWire p .searchRom (slotReset p s).2) with
      ⟨_ | lz, s'⟩
    · rfl
    · exact concludePass_ignoresHistory p lz h s'

theorem searchStep_ignoresHistory : IgnoresHistory (searchStep p) := fun h s => by
  simp only [searchStep, afterHistory_searchState]
  cases s.searchState with
  | done | noDevicePresent | checksumMismatch => rfl
  | notStarted | running => exact searchPass_ignoresHistory p h s

end operations

/-- The frame of a command puts the history in front of its own observation or mark. -/
theorem command_afterHistory {i : Instr} {body : State → Result × State} {s t : State} (h : History)
    (ht : command i body s = .next t) (hbody : IgnoresHistory body) :
    command i body (afterHistory h s) = .next (afterHistory h t) := by
  rcases command_cases ht with ⟨hinit, rfl⟩ | ⟨hinit, rfl⟩
  · have hrun : body (beginCommand (afterHistory h s)) = _ := hbody h (beginCommand s)
    rw [command_next (s := afterHistory h s) hinit, hrun, finishCommand_afterHistory]
  · rw [command_refused (s := afterHistory h s) hinit, refuse_afterHistory]

/-- The operation of a command takes the parameters from the state; its result is made of the operation's. -/
theorem IgnoresHistory.body {α : Type} {op : Params → State → α × State} (hop : ∀ p, IgnoresHistory (op p))
    (result : α → Result) : IgnoresHistory fun s => (result (op s.config s).1, (op s.config s).2) := fun h s => by
  have hrun : op (afterHistory h s).config (afterHistory h s) = _ := hop s.config h s
  dsimp only
  rw [hrun]

/-- The body of a command whose result is `.unit`. -/
theorem IgnoresHistory.unitBody {after : State → State}
    (hafter : ∀ h s, after (afterHistory h s) = afterHistory h (after s)) :
    IgnoresHistory fun s => (Result.unit, after s) := fun h s =>
  congrArg (Prod.mk Result.unit) (hafter h s)

theorem execSearchStep_afterHistory {s t : State} (h : History) (ht : exec .searchStep s = .next t) :
    exec .searchStep (afterHistory h s) = .next (afterHistory h t) := by
  rw [execSearchStep_eq] at ht ⊢
  rw [afterHistory_init, afterHistory_searchState]
  split at ht
  case isTrue hrefused =>
    obtain rfl := Host.Outcome.next.inj ht
    rw [if_pos hrefused, refuse_afterHistory]
  case isFalse hnot =>
    rw [if_neg hnot]
    exact command_afterHistory h ht (.body searchStep_ignoresHistory .outcome)

theorem exec_afterHistory {i : Instr} {s t : State} (h : History) (ht : exec i s = .next t) :
    exec i (afterHistory h s) = .next (afterHistory h t) := by
  cases i with
  | init =>
    obtain rfl := Host.Outcome.next.inj ht
    exact congrArg Host.Outcome.next
      (finishCommand_afterHistory h (bindTiming (initialiseCore (beginCommand s))) .init .unit)
  | searchStep => exact execSearchStep_afterHistory h ht
  | readStatus | crc8 _ | formatTemperature _ | startSearch =>
    simp only [exec, execReadStatus, execCrc8, execFormatTemperature, execStartSearch] at ht ⊢
    exact command_afterHistory h ht fun _ _ => rfl
  | write1 =>
    rw [exec, execWrite1] at ht ⊢
    exact command_afterHistory h ht (.unitBody fun h s => writeBit_afterHistory s.config h s true)
  | write0 =>
    rw [exec, execWrite0] at ht ⊢
    exact command_afterHistory h ht (.unitBody fun h s => writeBit_afterHistory s.config h s false)
  | readBit | pollConversionDone _ =>
    simp only [exec, execReadBit, execPollConversionDone] at ht ⊢
    exact command_afterHistory h ht (.body slotRead_ignoresHistory _)
  | reset =>
    rw [exec, execReset] at ht ⊢
    exact command_afterHistory h ht (.body slotReset_ignoresHistory _)
  | writeByte v8 =>
    rw [exec, execWriteByte] at ht ⊢
    exact command_afterHistory h ht (.unitBody fun h s => writeByte_afterHistory s.config h s v8)
  | readByte =>
    rw [exec, execReadByte] at ht ⊢
    exact command_afterHistory h ht (.body readByte_ignoresHistory _)
  | wireSearchRom | wireMatchRom | wireConvertT | wireReadScratchpad | wireWriteScratchpad =>
    simp only [exec, execWireSearchRom, execWireMatchRom, execWireConvertT, execWireReadScratchpad,
      execWireWriteScratchpad] at ht ⊢
    exact command_afterHistory h ht (.unitBody fun h s => sendWire_afterHistory s.config h s _)
  | matchRom rom =>
    rw [exec, execMatchRom] at ht ⊢
    exact command_afterHistory h ht (.unitBody fun h s => matchRom_afterHistory s.config h s rom)
  | requestConversion rom =>
    rw [exec, execRequestConversion] at ht ⊢
    exact command_afterHistory h ht (.unitBody fun h s => requestConversion_afterHistory s.config h s rom)
  | readScratchpad rom =>
    rw [exec, execReadScratchpad] at ht ⊢
    exact command_afterHistory h ht (.body (readScratchpadBody_ignoresHistory · rom) _)
  | readTemperature rom =>
    rw [exec, execReadTemperature] at ht ⊢
    exact command_afterHistory h ht (.body (readTemperatureBody_ignoresHistory · rom) _)
  | setResolution rom res =>
    rw [exec, execSetResolution] at ht ⊢
    exact command_afterHistory h ht (.body (setResolutionBody_ignoresHistory · rom res) _)

theorem exec_answers (i : Instr) (s : State) : ∃ t, exec i s = .next t := by
  rcases exec_cases i s with ⟨-, he⟩ | ⟨-, _, he⟩ | ⟨-, -, -, _, _, -, he⟩ <;> exact ⟨_, he⟩

/-- Settles O14, by `exec_afterHistory` from the state without its history: what is observed or marked there is what
the instruction adds after any history. -/
theorem execIgnoresHistory : Obligations.ExecIgnoresHistory := by
  unfold Obligations.ExecIgnoresHistory
  intro i s t port obs marks h
  obtain ⟨u, hu⟩ := exec_answers i (withoutHistory s)
  have hs := exec_afterHistory (historyOf s) hu
  rw [afterHistory_historyOf, h] at hs
  obtain rfl := Host.Outcome.next.inj hs
  refine ⟨u.observations, u.marks, rfl, rfl, ?_⟩
  have hother := exec_afterHistory ⟨port, obs, marks⟩ hu
  simpa [afterHistory, withoutHistory] using hother

/-! ### The empty reference bus (R66) -/

theorem keepsBudget_of_onTime {s : State} (htime : OnTime s) : keepsBudget s.config s.timing = true := htime

section emptyBus

/-- Nothing pulls a released line low. -/
@[simp] theorem lineLevel_emptyBus (slot : Slot) (n : Nat) :
    lineLevel true (.reference []) .released slot n = true := by
  cases slot <;> rfl

variable (p : Params)

@[simp] theorem envAfterSlot_emptyBus (slot : Slot) : envAfterSlot p slot (.reference []) = .reference [] := rfl

@[simp] theorem envAfterSample_emptyBus : envAfterSample (.reference []) = .reference [] := rfl

@[simp] theorem envAfterBits_emptyBus (bs : List Bool) : envAfterBits p bs (.reference []) = .reference [] := by
  induction bs with
  | nil => rfl
  | cons b bs ih => simp [ih]

@[simp] theorem envAfterReads_emptyBus (n : Nat) : envAfterReads p n (.reference []) = .reference [] := by
  induction n with
  | zero => rfl
  | succ n ih => simp [envAfterReads, ih]

@[simp] theorem readRun_emptyBus (n k : Nat) : readRun p true n (.reference []) k = List.replicate n true := by
  induction n generalizing k with
  | zero => rfl
  | succ n ih => simp [readRun, ih, List.replicate_succ]

theorem byteOfBits_ones : byteOfBits (List.replicate 8 true) = 0xFF#8 := by decide

@[simp] theorem readByteRun_emptyBus (n k : Nat) :
    readByteRun p true n (.reference []) k = List.replicate n 0xFF#8 := by
  induction n generalizing k with
  | zero => rfl
  | succ n ih =>
    rw [readByteRun, readRun_emptyBus, envAfterReads_emptyBus, ih, byteOfBits_ones, List.replicate_succ]

/-- A frame of ones fails its check: the CRC of eight bytes 0xFF is not 0xFF (R166). -/
theorem padOk_ones : padOk params (decodeFrame (List.replicate 9 0xFF#8)) = false := by decide +kernel

variable {s : State} (hbus : s.env = .reference []) (htime : OnTime s)
include hbus htime

theorem lineLevel_of_emptyBus (slot : Slot) (n : Nat) :
    lineLevel (keepsBudget s.config s.timing) s.env .released slot n = true := by
  rw [hbus, keepsBudget_of_onTime htime, lineLevel_emptyBus]

theorem slotReset_emptyBus :
    slotReset s.config s =
      (false,
        { s with
          presence := false
          busDrive := .released
          trace := s.trace ++ resetTrace s.config true
          sampleCount := s.sampleCount + 1 }) := by
  have hbit : (slotReset s.config s).1 = false := by
    rw [slotReset_fst, lineLevel_of_emptyBus hbus htime, Bool.not_true]
  refine Prod.ext hbit ?_
  simp [slotReset_snd, hbit, hbus]

theorem slotRead_emptyBus :
    slotRead s.config s =
      (true,
        { s with
          busDrive := .released
          trace := s.trace ++ readBitTrace s.config true
          sampleCount := s.sampleCount + 1 }) := by
  have hbit : (slotRead s.config s).1 = true := by
    rw [slotRead_fst, lineLevel_of_emptyBus hbus htime]
  refine Prod.ext hbit ?_
  simp [slotRead_snd, hbit, hbus]

theorem readByte_emptyBus :
    readByte s.config s =
      (0xFF#8,
        { s with
          busDrive := .released
          trace := s.trace ++ readByteTrace s.config 0xFF#8
          sampleCount := s.sampleCount + 8 }) := by
  rw [readByte_eq, hbus, keepsBudget_of_onTime htime, readRun_emptyBus, byteOfBits_ones, envAfterReads_emptyBus]

theorem fetchedBytes_emptyBus (rom : RomCode) :
    fetchedBytes s.config rom s = List.replicate s.config.scratchpadBytes 0xFF#8 := by
  simp [fetchedBytes, envAfterMatch, hbus, keepsBudget_of_onTime htime]

/-- The frame of ones fails its check, and the body leaves cause 3 (R166, R231). -/
theorem readScratchpadBody_emptyBus (hconfig : s.config = params) (rom : RomCode) :
    readScratchpadBody s.config rom s =
      (.checksumError,
        { s with
          presence := false
          err := .checksumMismatch
          busDrive := .released
          trace := s.trace ++ readBytesTrace s.config rom true (List.replicate 9 0xFF#8)
          sampleCount := s.sampleCount + 73 }) := by
  have hwidth : s.config.scratchpadBytes = 9 := by rw [hconfig]; rfl
  have hbytes := fetchedBytes_emptyBus hbus htime rom
  rw [hwidth] at hbytes
  have hpresence : presenceOf s.config s = false := by
    rw [presenceOf, lineLevel_of_emptyBus hbus htime, Bool.not_true]
  have hpad : padOk s.config (padOf s.config rom s) = false := by
    rw [padOf, hbytes, hconfig]
    exact padOk_ones
  simp [readScratchpadBody_eq, hpad, hpresence, hbytes, hwidth, envAfterFetch, envAfterMatch, hbus]

end emptyBus

/-- Settles O47, by what the body of each of the four commands answers on the empty bus. -/
theorem emptyBusReadsOnes : Obligations.EmptyBusReadsOnes := by
  unfold Obligations.EmptyBusReadsOnes
  intro s hinit hbus hconfig htime
  refine ⟨?_, ?_, ?_, fun rom => ?_⟩
  · rw [exec, execReset, command_next hinit, slotReset_emptyBus (s := beginCommand s) hbus htime]
    exact ⟨_, _, rfl, rfl, rfl⟩
  · rw [exec, execReadBit, command_next hinit, slotRead_emptyBus (s := beginCommand s) hbus htime]
    exact ⟨_, _, rfl, rfl⟩
  · rw [exec, execReadByte, command_next hinit, readByte_emptyBus (s := beginCommand s) hbus htime]
    exact ⟨_, _, rfl, rfl⟩
  · rw [exec, execReadScratchpad, command_next hinit,
      readScratchpadBody_emptyBus (s := beginCommand s) hbus htime hconfig]
    exact ⟨_, _, rfl, rfl, rfl⟩

end Sys2Proof.Proofs.Memory
end

section
/-! SUPPORT. The statements on the encoding (30_encoding.md): decoding and encoding undo each other, what the decoder
refuses, the wire rows and the result frames. -/

namespace Sys2Proof.Proofs.Encoding

open Sys2Proof.Machine Sys2Proof.Safety

/-! ### The wire rows (R85) -/

/-- The instruction of each wire row (R85). -/
def wireInstr : WireCmd → Instr
  | .searchRom => .wireSearchRom
  | .matchRom => .wireMatchRom
  | .convertT => .wireConvertT
  | .readScratchpad => .wireReadScratchpad
  | .writeScratchpad => .wireWriteScratchpad

theorem encode_wireInstr (c : WireCmd) : encode (wireInstr c) = .wire (wireByte c) := by
  cases c <;> rfl

theorem wellFormed_wireInstr (c : WireCmd) : wellFormed (wireInstr c) = true := by
  cases c <;> rfl

theorem exec_wireInstr (c : WireCmd) (s : State) :
    exec (wireInstr c) s = command (wireInstr c) (fun s => (.unit, sendWire s.config c s)) s := by
  cases c <;> rfl

theorem decode_wireByte (c : WireCmd) : decode (.wire (wireByte c)) = .ok (wireInstr c) := by
  cases c <;> rfl

/-- The wire frames that decode are the five of R85. -/
theorem wire_of_decode {v : Byte} {i : Instr} (h : decode (.wire v) = .ok i) :
    ∃ c, v = wireByte c ∧ i = wireInstr c := by
  cases hc : wireCommand v with
  | none => simp [decode, decodeWire, hc] at h
  | some c =>
    obtain rfl := eq_wireByte_of_command hc
    exact ⟨c, rfl, Except.ok.inj (h.symm.trans (decode_wireByte c))⟩

/-! ### Command frames: opcode, length, operands (R81, R92, R309) -/

/-- A command frame decodes when its operand bytes have the length of the format and assemble. -/
theorem decode_of_assembled {op : Opcode} {operands : List Byte} {i : Instr}
    (hlength : operands.length = operandLength (opcodeFormat op) operands)
    (hassemble : assembleOperands op operands = .ok i) :
    decode (.command (opcodeByte op :: operands)) = .ok i :=
  (decode_opcode_of_length hlength).trans hassemble

/-- The command frames that decode are those of `decode_of_assembled`. -/
theorem assembled_of_decode {bytes : List Byte} {i : Instr} (h : decode (.command bytes) = .ok i) :
    ∃ op operands, bytes = opcodeByte op :: operands ∧ operands.length = operandLength (opcodeFormat op) operands ∧
      assembleOperands op operands = .ok i := by
  cases bytes with
  | nil => simp [decode, decodeCommand] at h
  | cons v operands =>
    cases hv : lookupOpcode v with
    | none => simp [decode_reserved hv] at h
    | some op =>
      obtain rfl := eq_opcodeByte_of_lookup hv
      by_cases hlength : operands.length = operandLength (opcodeFormat op) operands
      · exact ⟨op, operands, rfl, hlength, (decode_opcode_of_length hlength).symm.trans h⟩
      · simp [decode_opcode, hlength] at h

/-- Format L takes its length from the length byte; without one, from a length of 0 (R81, R95). -/
theorem operandLength_l (operands : List Byte) :
    operandLength .l operands = 1 + (operands.headD 0#8).toNat := by
  cases operands <;> rfl

/-- A `res` byte that selects a resolution makes SET_RESOLUTION (R89, R92). -/
theorem assembleOperands_setResolution {v : Byte} {res : Resolution} (rom : RomCode)
    (h : resolutionOfCode v = some res) :
    assembleOperands .setResolution (romBytes rom ++ [v]) = .ok (.setResolution rom res) := by
  have hv : (romBytes rom ++ [v]).getD 8 0#8 = v := rfl
  have hrom : (romBytes rom ++ [v]).take 8 = romBytes rom := rfl
  simp only [assembleOperands, hv, h, hrom, romOfBytes_romBytes]

/-- A `res` byte that selects none is refused (R89, R92). -/
theorem assembleOperands_setResolution_bad {v : Byte} (rom : RomCode) (h : resolutionOfCode v = none) :
    assembleOperands .setResolution (romBytes rom ++ [v]) = .error .badOperand := by
  have hv : (romBytes rom ++ [v]).getD 8 0#8 = v := rfl
  simp only [assembleOperands, hv, h]

/-- The operands of format RS are the eight bytes of a ROM code, then the `res` byte (R81). -/
theorem operands_rs {operands : List Byte} (h : operands.length = 9) :
    ∃ rom v, operands = romBytes rom ++ [v] := by
  have htake : (operands.take 8).length = 8 := by simp [h]
  have hlast : operands.take 8 ++ [operands[8]] = operands := by
    rw [List.take_append_getElem (by omega), List.take_of_length_le h.le]
  exact ⟨romOfBytes (operands.take 8), operands[8], by rw [romBytes_romOfBytes htake, hlast]⟩

/-! ### Decoding and encoding undo each other -/

/-- The frame of an instruction decodes to it, format by format. -/
theorem decode_encode {i : Instr} (h : wellFormed i = true) : decode (encode i) = .ok i := by
  cases i with
  | init | readStatus | write1 | write0 | readBit | reset | readByte | startSearch | searchStep =>
    exact decode_of_assembled rfl rfl
  | writeByte v8 => exact decode_of_assembled rfl rfl
  | crc8 data =>
    have hcount : data.length % 256 = data.length := Nat.mod_eq_of_lt (Nat.lt_succ_of_le (of_decide_eq_true h))
    refine decode_of_assembled ?_ rfl
    simp [opcodeFormat, operandLength, hcount, Nat.add_comm]
  | matchRom rom | requestConversion rom | pollConversionDone rom | readScratchpad rom | readTemperature rom =>
    refine decode_of_assembled rfl ?_
    simp only [assembleOperands, romOfBytes_romBytes]
  | setResolution rom res =>
    exact decode_of_assembled rfl (assembleOperands_setResolution rom (resolutionOfCode_code res))
  | formatTemperature t16 =>
    exact decode_of_assembled rfl (congrArg (Except.ok ∘ Instr.formatTemperature) (wordOfBytes_high_low t16))
  | wireSearchRom => exact decode_wireByte .searchRom
  | wireMatchRom => exact decode_wireByte .matchRom
  | wireConvertT => exact decode_wireByte .convertT
  | wireReadScratchpad => exact decode_wireByte .readScratchpad
  | wireWriteScratchpad => exact decode_wireByte .writeScratchpad

/-- The instruction assembled from operands of the right length has just these bytes as its frame, format by format. -/
theorem encode_of_assembled {op : Opcode} {operands : List Byte} {i : Instr}
    (hlength : operands.length = operandLength (opcodeFormat op) operands)
    (hassemble : assembleOperands op operands = .ok i) :
    wellFormed i = true ∧ encode i = .command (opcodeByte op :: operands) := by
  cases op with
  | init | readStatus | write1 | write0 | readBit | reset | readByte | startSearch | searchStep =>
    obtain rfl := List.eq_nil_of_length_eq_zero hlength
    obtain rfl := Except.ok.inj hassemble
    exact ⟨rfl, rfl⟩
  | writeByte =>
    obtain ⟨v8, rfl⟩ := List.length_eq_one_iff.mp hlength
    obtain rfl := Except.ok.inj hassemble
    exact ⟨rfl, rfl⟩
  | crc8 =>
    obtain rfl := Except.ok.inj hassemble
    cases operands with
    | nil => simp [opcodeFormat, operandLength] at hlength
    | cons n data =>
      have hcount : data.length = n.toNat := by
        simp only [opcodeFormat, operandLength, List.length_cons] at hlength
        omega
      have hbyte : data.length ≤ 255 := by
        have := n.isLt
        omega
      exact ⟨decide_eq_true hbyte, by simp [encode, hcount]⟩
  | matchRom | requestConversion | pollConversionDone | readScratchpad | readTemperature =>
    obtain rfl := Except.ok.inj hassemble
    exact ⟨rfl, by simp only [encode, romBytes_romOfBytes hlength]⟩
  | setResolution =>
    obtain ⟨rom, v, rfl⟩ := operands_rs hlength
    cases hv : resolutionOfCode v with
    | none => simp [assembleOperands_setResolution_bad rom hv] at hassemble
    | some res =>
      obtain rfl := Except.ok.inj ((assembleOperands_setResolution rom hv).symm.trans hassemble)
      exact ⟨rfl, by rw [eq_resolutionCode_of_code hv, encode]⟩
  | formatTemperature =>
    obtain ⟨lo, hi, rfl⟩ := List.length_eq_two.mp hlength
    obtain rfl := Except.ok.inj hassemble
    exact ⟨rfl, by simp [encode]⟩

/-- Settles O1: `decode_encode`. -/
theorem encodedFrameDecodesBack : Obligations.EncodedFrameDecodesBack := by
  unfold Obligations.EncodedFrameDecodesBack
  exact fun i => decode_encode

/-- Settles O2: a command frame by `encode_of_assembled`, a wire item by the five rows. -/
theorem decodedFrameIsCanonical : Obligations.DecodedFrameIsCanonical := by
  unfold Obligations.DecodedFrameIsCanonical
  intro f i h
  cases f with
  | command bytes =>
    obtain ⟨op, operands, rfl, hlength, hassemble⟩ := assembled_of_decode h
    exact encode_of_assembled hlength hassemble
  | wire v =>
    obtain ⟨c, rfl, rfl⟩ := wire_of_decode h
    exact ⟨wellFormed_wireInstr c, encode_wireInstr c⟩

/-! ### What the decoder refuses (R89, R93, R95, R306) -/

/-- The decoder names a reserved opcode exactly when the table has no row for it: a bad length or operand of a known
opcode gets a name of its own. -/
theorem decode_eq_reservedOpcode_iff (v : Byte) (operands : List Byte) :
    decode (.command (v :: operands)) = .error .reservedOpcode ↔ lookupOpcode v = none := by
  refine ⟨fun h => ?_, fun h => decode_reserved h operands⟩
  cases hv : lookupOpcode v with
  | none => rfl
  | some op =>
    obtain rfl := eq_opcodeByte_of_lookup hv
    rw [decode_opcode] at h
    split at h
    · exact absurd (assembleOperands_error h) (by decide)
    · exact absurd (Except.error.inj h) (by decide)

/-- The opcodes without a row, by the ranges of R93. -/
theorem lookupOpcode_eq_none_iff (v : Byte) :
    lookupOpcode v = none ↔
      (v.toNat = 0x00 ∨ (0x03 ≤ v.toNat ∧ v.toNat ≤ 0x0F) ∨ (0x14 ≤ v.toNat ∧ v.toNat ≤ 0x1F) ∨
        (0x22 ≤ v.toNat ∧ v.toNat ≤ 0x2F) ∨ (0x31 ≤ v.toNat ∧ v.toNat ≤ 0x3F) ∨
        (0x42 ≤ v.toNat ∧ v.toNat ≤ 0x4F) ∨ (0x56 ≤ v.toNat ∧ v.toNat ≤ 0x5F) ∨ 0x61 ≤ v.toNat) := by
  revert v
  decide +kernel

/-- A waiting frame that the decoder refuses is taken off the port and leaves its mark (R306). -/
theorem step_of_decode_error {s : State} {f : Frame} {rest : List Frame} {why : RefuseReason}
    (hport : s.port = f :: rest) (hdecode : decode f = .error why) :
    step s = .next (refuse why (takeFrame rest s)) := by
  simp only [step, hport, hdecode]

/-- Settles O4: the opcodes without a row are those of R93, and the step is `refuse` after `takeFrame`. -/
theorem reservedOpcodeIsRefused : Obligations.ReservedOpcodeIsRefused := by
  unfold Obligations.ReservedOpcodeIsRefused
  intro v operands
  exact ⟨(decode_eq_reservedOpcode_iff v operands).trans (lookupOpcode_eq_none_iff v),
    fun s rest hport hdecode => step_of_decode_error hport hdecode⟩

/-- Settles O5: the number the statement gives for each format is its `operandLength`. -/
theorem wrongFrameLengthIsRefused : Obligations.WrongFrameLengthIsRefused := by
  unfold Obligations.WrongFrameLengthIsRefused
  intro op operands hwrong
  have hlength : operands.length ≠ operandLength (opcodeFormat op) operands := by
    cases hformat : opcodeFormat op <;> rw [hformat] at hwrong
    case l => exact operandLength_l operands ▸ hwrong
    all_goals exact hwrong
  rw [decode_opcode, if_neg hlength]

/-- A `res` byte with any of bits 7:2 set selects no resolution (R89). -/
theorem resolutionOfCode_of_high_bits (v : Byte) : v &&& 0xFC#8 ≠ 0#8 → resolutionOfCode v = none := by
  revert v
  decide +kernel

/-- Bits 1:0 alone select the resolution (R89). -/
theorem resolutionOfCode_of_low_bits (v : Byte) : v &&& 0xFC#8 = 0#8 →
    resolutionOfCode v =
      some (if v = 0#8 then .r9 else if v = 1#8 then .r10 else if v = 2#8 then .r11 else .r12) := by
  revert v
  decide +kernel

/-- Settles O6: the nine operand bytes fit format RS, so the answer is that of the `res` byte. -/
theorem resolutionOperandDecodes : Obligations.ResolutionOperandDecodes := by
  unfold Obligations.ResolutionOperandDecodes
  intro rom v
  have hdecode : decode (.command (0x55#8 :: (romBytes rom ++ [v]))) =
      assembleOperands .setResolution (romBytes rom ++ [v]) :=
    decode_opcode_of_length (op := .setResolution) rfl
  rw [hdecode]
  exact ⟨fun h => assembleOperands_setResolution_bad rom (resolutionOfCode_of_high_bits v h),
    fun h => assembleOperands_setResolution rom (resolutionOfCode_of_low_bits v h)⟩

/-! ### The effect of a wire row, and fixed frames -/

/-- A wire row sends its byte: `writeByte_eq` between `beginCommand` and `finishCommand` (R85, R140). -/
theorem exec_wireInstr_eq (c : WireCmd) {s : State} (h : s.init = true) :
    exec (wireInstr c) s =
      .next { s with
        busDrive := .released
        trace := []
        env := envAfterBits s.config (byteBits (wireByte c)) s.env
        observations := s.observations ++ [⟨wireInstr c, .unit, writeByteTrace s.config (wireByte c)⟩] } := by
  rw [exec_wireInstr, command_next h, sendWire, writeByte_eq]
  rfl

/-- Settles O53: the five pairs are the five wire rows, each with the effect of `exec_wireInstr_eq`. -/
theorem wireBytesGoOutLsbFirst : Obligations.WireBytesGoOutLsbFirst := by
  unfold Obligations.WireBytesGoOutLsbFirst
  intro s hinit row hrow
  obtain ⟨c, rfl⟩ : ∃ c, row = (wireInstr c, wireByte c) := by
    simp only [List.mem_cons, List.not_mem_nil, or_false] at hrow
    obtain h | h | h | h | h := hrow
    · exact ⟨.searchRom, h⟩
    · exact ⟨.matchRom, h⟩
    · exact ⟨.convertT, h⟩
    · exact ⟨.readScratchpad, h⟩
    · exact ⟨.writeScratchpad, h⟩
  refine ⟨decode_wireByte c, _, exec_wireInstr_eq c hinit, fun ds hdraws => ?_⟩
  rw [hdraws, envAfterBits_draws]

/-- Settles O3: each of the eleven frames is run through the decoder. -/
theorem specFramesDecode : Obligations.SpecFramesDecode := by
  unfold Obligations.SpecFramesDecode
  decide

/-- Settles O52: `encodeResult` has one equation per kind of result, and `lowByte`, `highByte` and `boolCode` are the
bytes the statement writes out. -/
theorem resultFramesAsTabled : Obligations.ResultFramesAsTabled := by
  unfold Obligations.ResultFramesAsTabled
  exact ⟨rfl, fun b => rfl, fun v => rfl, fun code => rfl, rfl, rfl, rfl, fun f => rfl, rfl, fun raw => rfl, rfl,
    fun b => rfl, fun w => rfl, fun ascii => rfl⟩

end Sys2Proof.Proofs.Encoding
end

section
/-! SUPPORT. The statements on the bit slots (40_bit_slots.md): the commands that make one slot, and that every trace
samples a released line and ends released. -/

namespace Sys2Proof.Proofs.Slots

open Sys2Proof.Machine Sys2Proof.Safety

/-! ### Every trace samples a released line (R111, R118) -/

/-- The observation that a command adds holds its body's result and trace; a refused command adds none (R70, R306). -/
theorem observed_of_command {i : Instr} {body : State → Result × State} {s t : State} {o : Observation}
    (h : command i body s = .next t) (ho : t.observations = s.observations ++ [o]) :
    s.init = true ∧ o = ⟨i, (body (beginCommand s)).1, (body (beginCommand s)).2.trace⟩ := by
  rcases command_cases h with ⟨hinit, rfl⟩ | ⟨-, rfl⟩
  · rw [finishCommand_observations] at ho
    exact ⟨hinit, (List.singleton_inj.1 (List.append_inj_right' ho rfl)).symm⟩
  · simp at ho

section bodies

variable (p : Params) {s : State} (hs : Released s.trace)
include hs

theorem writeBit_keeps_released (b : Bool) : Released (writeBit p b s).trace := by
  rw [writeBit_eq]
  exact hs.append (released_writeBit p b)

theorem slotRead_keeps_released : Released (slotRead p s).2.trace := by
  rw [slotRead_snd]
  exact hs.append (released_readBit p _)

theorem slotReset_keeps_released : Released (slotReset p s).2.trace := by
  rw [slotReset_snd]
  exact hs.append (released_reset p _)

theorem writeByte_keeps_released (v : Byte) : Released (writeByte p v s).trace := by
  rw [writeByte_eq]
  exact hs.append (released_writeByte p v)

theorem sendWire_keeps_released (c : WireCmd) : Released (sendWire p c s).trace :=
  writeByte_keeps_released p hs (wireByte c)

theorem readByte_keeps_released : Released (readByte p s).2.trace := by
  rw [readByte_eq]
  exact hs.append (released_readByte p _)

theorem matchRom_keeps_released (rom : RomCode) : Released (matchRom p rom s).trace := by
  rw [matchRom_eq]
  exact hs.append (released_match p rom _)

theorem readScratchpadBody_keeps_released (rom : RomCode) : Released (readScratchpadBody p rom s).2.trace := by
  rw [readScratchpadBody_eq]
  exact hs.append (released_readBytes p rom _ _)

theorem readTemperatureBody_keeps_released (rom : RomCode) : Released (readTemperatureBody p rom s).2.trace := by
  rw [readTemperatureBody_eq]
  exact hs.append (released_readBytes p rom _ _)

/-- SET_RESOLUTION ends after its read transaction, or goes on with its write transaction (R245). -/
theorem setResolutionBody_keeps_released (rom : RomCode) (res : Resolution) :
    Released (setResolutionBody p rom res s).2.trace := by
  have hfetch : Released (afterFetch p rom s).trace := hs.append (released_readBytes p rom _ _)
  by_cases hpad : padOk p (padOf p rom s) = true
  · rw [setResolutionBody_ok res hpad, setErr_trace, writeScratchpad_eq]
    exact hfetch.append (released_writePad p rom _ _)
  · rw [setResolutionBody_fail res hpad]
    exact hfetch

theorem searchPositions_keeps_released (ld : Int) (n i : Nat) (lz : Int) :
    Released (searchPositions p ld n i lz s).2.trace := by
  obtain ⟨tr, htrace, htr⟩ := searchPositions_released_trace p ld n i lz s
  rw [htrace]
  exact hs.append htr

/-- A pass has no bus event after its reset slot, or after its positions (R184, R187, R193 to R195). -/
theorem searchPass_keeps_released : Released (searchPass p s).2.trace := by
  have hreset := slotReset_keeps_released p hs
  have hpositions := searchPositions_keeps_released p (sendWire_keeps_released p hreset .searchRom)
    s.lastDiscrepancy p.romBits 0 (-1)
  rcases searchPass_cases p s with ⟨-, h⟩ | ⟨s', -, hpos, h⟩ | ⟨lz, s', -, hpos, h⟩ <;> rw [h]
  · exact hreset
  · rw [hpos] at hpositions
    exact hpositions
  · rw [hpos] at hpositions
    rcases concludePass_cases p lz s' with ⟨-, hend⟩ | ⟨-, hend⟩ <;> rw [hend] <;> exact hpositions

/-- A search step is a pass, or the tag of a terminal state with no bus event (R182). -/
theorem searchStep_keeps_released : Released (searchStep p s).2.trace := by
  cases hstate : s.searchState with
  | done | noDevicePresent | checksumMismatch => simpa only [searchStep, hstate] using hs
  | notStarted | running => simpa only [searchStep, hstate] using searchPass_keeps_released p hs

end bodies

/-- The body of a command starts with an empty trace, so what keeps a trace released leaves a released one. -/
theorem released_of_command {i : Instr} {answer : State → Result} {after : State → State} {s t : State}
    {o : Observation} (h : command i (fun u => (answer u, after u)) s = .next t)
    (ho : t.observations = s.observations ++ [o])
    (hbody : ∀ {u : State}, Released u.trace → Released (after u).trace) : Released o.trace := by
  obtain ⟨-, rfl⟩ := observed_of_command h ho
  exact hbody (u := beginCommand s) .nil

theorem released_of_execSearchStep {s t : State} {o : Observation} (h : exec .searchStep s = .next t)
    (ho : t.observations = s.observations ++ [o]) : Released o.trace := by
  rw [execSearchStep_eq] at h
  split at h
  case isTrue =>
    obtain rfl := Host.Outcome.next.inj h
    simp at ho
  case isFalse => exact released_of_command h ho fun {u} => searchStep_keeps_released u.config

theorem released_of_exec {i : Instr} {s t : State} {o : Observation} (h : exec i s = .next t)
    (ho : t.observations = s.observations ++ [o]) : Released o.trace := by
  cases i with
  | init =>
    obtain rfl := Host.Outcome.next.inj h
    obtain rfl := List.singleton_inj.1 (List.append_inj_right' ho rfl)
    exact .nil
  | searchStep => exact released_of_execSearchStep h ho
  | readStatus | crc8 _ | formatTemperature _ | startSearch =>
    simp only [exec, execReadStatus, execCrc8, execFormatTemperature, execStartSearch] at h
    exact released_of_command h ho id
  | write1 =>
    rw [exec, execWrite1] at h
    exact released_of_command h ho fun {u} hu => writeBit_keeps_released u.config hu true
  | write0 =>
    rw [exec, execWrite0] at h
    exact released_of_command h ho fun {u} hu => writeBit_keeps_released u.config hu false
  | readBit | pollConversionDone _ =>
    simp only [exec, execReadBit, execPollConversionDone] at h
    exact released_of_command h ho fun {u} => slotRead_keeps_released u.config
  | reset =>
    rw [exec, execReset] at h
    exact released_of_command h ho fun {u} => slotReset_keeps_released u.config
  | writeByte v8 =>
    rw [exec, execWriteByte] at h
    exact released_of_command h ho fun {u} hu => writeByte_keeps_released u.config hu v8
  | readByte =>
    rw [exec, execReadByte] at h
    exact released_of_command h ho fun {u} => readByte_keeps_released u.config
  | wireSearchRom | wireMatchRom | wireConvertT | wireReadScratchpad | wireWriteScratchpad =>
    simp only [exec, execWireSearchRom, execWireMatchRom, execWireConvertT, execWireReadScratchpad,
      execWireWriteScratchpad] at h
    exact released_of_command h ho fun {u} hu => sendWire_keeps_released u.config hu _
  | matchRom rom =>
    rw [exec, execMatchRom] at h
    exact released_of_command h ho fun {u} hu => matchRom_keeps_released u.config hu rom
  | requestConversion rom =>
    rw [exec, execRequestConversion] at h
    exact released_of_command h ho fun {u} hu =>
      sendWire_keeps_released u.config (matchRom_keeps_released u.config hu rom) .convertT
  | readScratchpad rom =>
    rw [exec, execReadScratchpad] at h
    exact released_of_command h ho fun {u} hu => readScratchpadBody_keeps_released u.config hu rom
  | readTemperature rom =>
    rw [exec, execReadTemperature] at h
    exact released_of_command h ho fun {u} hu => readTemperatureBody_keeps_released u.config hu rom
  | setResolution rom res =>
    rw [exec, execSetResolution] at h
    exact released_of_command h ho fun {u} hu => setResolutionBody_keeps_released u.config hu rom res

/-- Settles O58: the two clauses of `Released`, by `released_of_exec`. -/
theorem samplesAreTakenReleased : Obligations.SamplesAreTakenReleased := by
  unfold Obligations.SamplesAreTakenReleased
  intro i s t o h ho
  have htrace := released_of_exec h ho
  exact ⟨htrace.samples, htrace.ends⟩

/-! ### The slots at the source's constants (R110, R113 to R116, R119) -/

theorem writeBitTrace_params_true :
    writeBitTrace params true = [.driveLow, .wait 6, .release, .wait 64] := rfl

theorem writeBitTrace_params_false :
    writeBitTrace params false = [.driveLow, .wait 60, .release, .wait 10] := rfl

theorem readBitTrace_params (v : Bool) :
    readBitTrace params v = [.driveLow, .wait 6, .release, .wait 9, .sample v, .wait 55] := rfl

theorem resetTrace_params (v : Bool) :
    resetTrace params v = [.wait 0, .driveLow, .wait 480, .release, .wait 70, .sample v, .wait 410] := rfl

/-- Settles O20: the four traces, and their times by the `measured_` lemmas on slots. -/
theorem slotTracesHaveSpecConstants : Obligations.SlotTracesHaveSpecConstants := by
  unfold Obligations.SlotTracesHaveSpecConstants
  exact ⟨writeBitTrace_params_true, writeBitTrace_params_false, readBitTrace_params, resetTrace_params,
    (measured_writeBit true).time, (measured_writeBit false).time, fun v => (measured_readBit v).time,
    fun v => (measured_reset v).time⟩

/-! ### The commands of one slot (R122 to R125) -/

/-- Settles O21: `slotWrite1_eq` between `beginCommand` and `finishCommand`. -/
theorem write1MakesWrite1Slot : Obligations.Write1MakesWrite1Slot := by
  unfold Obligations.Write1MakesWrite1Slot
  refine ⟨Encoding.decode_encode (i := .write1) rfl, fun s hinit => ?_, writeBitTrace_params_true,
    fun s hinit => CoreState.exec_before_init nofun hinit⟩
  rw [exec, execWrite1, command_next hinit, slotWrite1_eq]
  rfl

/-- Settles O22: `slotWrite0_eq` between `beginCommand` and `finishCommand`. -/
theorem write0MakesWrite0Slot : Obligations.Write0MakesWrite0Slot := by
  unfold Obligations.Write0MakesWrite0Slot
  refine ⟨Encoding.decode_encode (i := .write0) rfl, fun s hinit => ?_, writeBitTrace_params_false,
    fun s hinit => CoreState.exec_before_init nofun hinit⟩
  rw [exec, execWrite0, command_next hinit, slotWrite0_eq]
  rfl

/-- The bit that a slot of this kind samples on the released line (R115, R116, R118). -/
def slotSample (slot : Slot) (s : State) : Bool :=
  lineLevel (keepsBudget s.config s.timing) s.env .released slot s.sampleCount

/-- The environment after a slot of this kind with its one sample. -/
def envAfterSampledSlot (slot : Slot) (s : State) : Env :=
  envAfterSlot s.config slot (envAfterSample s.env)

/-- With the draws fixed a slot samples the first of them and uses it up (R59). -/
theorem slotSample_of_draws {s : State} {b : Bool} {ds : List Bool} (slot : Slot) (henv : s.env = .draws (b :: ds)) :
    slotSample slot s = b ∧ envAfterSampledSlot slot s = .draws ds := by
  rw [slotSample, envAfterSampledSlot, henv]
  exact ⟨rfl, rfl⟩

/-- On the empty bus a slot on time samples 1, and the bus stays empty (R66, R120). -/
theorem slotSample_of_emptyBus {s : State} (slot : Slot) (htime : OnTime s) (hbus : s.env = .reference []) :
    slotSample slot s = true ∧ envAfterSampledSlot slot s = .reference [] := by
  refine ⟨Memory.lineLevel_of_emptyBus hbus htime slot s.sampleCount, ?_⟩
  rw [envAfterSampledSlot, hbus, Memory.envAfterSample_emptyBus, Memory.envAfterSlot_emptyBus]

/-- READBIT makes one read slot and answers its sample (R115, R124). -/
theorem exec_readBit_eq {s : State} (h : s.init = true) :
    exec .readBit s =
      .next { s with
        busDrive := .released
        trace := []
        env := envAfterSampledSlot .read s
        sampleCount := s.sampleCount + 1
        observations :=
          s.observations ++ [⟨.readBit, .bit (slotSample .read s), readBitTrace s.config (slotSample .read s)⟩] } := by
  rw [exec, execReadBit, command_next h]
  dsimp only
  rw [slotRead_snd]
  rfl

/-- RESET makes one reset slot, and answers and records that its sample read 0 (R116, R125). -/
theorem exec_reset_eq {s : State} (h : s.init = true) :
    exec .reset s =
      .next { s with
        presence := !slotSample .reset s
        busDrive := .released
        trace := []
        env := envAfterSampledSlot .reset s
        sampleCount := s.sampleCount + 1
        observations :=
          s.observations ++
            [⟨.reset, .bool (!slotSample .reset s), resetTrace s.config (slotSample .reset s)⟩] } := by
  rw [exec, execReset, command_next h]
  dsimp only
  rw [slotReset_snd, slotReset_fst, Bool.not_not]
  rfl

/-- Settles O23: `exec_readBit_eq`, and what the sample is on fixed draws and on the empty bus. -/
theorem readBitReturnsSample : Obligations.ReadBitReturnsSample := by
  unfold Obligations.ReadBitReturnsSample
  exact ⟨Encoding.decode_encode (i := .readBit) rfl,
    fun s hinit => ⟨_, _, exec_readBit_eq hinit, fun _ _ => slotSample_of_draws .read, slotSample_of_emptyBus .read⟩,
    readBitTrace_params, fun s hinit => CoreState.exec_before_init nofun hinit⟩

/-- Settles O24: `exec_reset_eq`, and what the sample is on fixed draws and on the empty bus. -/
theorem resetDetectsPresence : Obligations.ResetDetectsPresence := by
  unfold Obligations.ResetDetectsPresence
  exact ⟨Encoding.decode_encode (i := .reset) rfl,
    fun s hinit => ⟨_, _, exec_reset_eq hinit, fun _ _ => slotSample_of_draws .reset, slotSample_of_emptyBus .reset⟩,
    resetTrace_params, fun s hinit => CoreState.exec_before_init nofun hinit⟩

end Sys2Proof.Proofs.Slots
end

section
/-! SUPPORT. The statements on the byte transport (41_byte_transport.md): a byte goes out and comes in as eight slots,
bit 0 first. -/

namespace Sys2Proof.Proofs.ByteTransport

open Sys2Proof.Machine Sys2Proof.Safety

/-! ### Slot `k` carries bit `k` (R140, R142) -/

/-- The one place where the order of the bits is read off: everything below goes through it. -/
theorem byteBits_eq_map_range (v : Byte) : byteBits v = (List.range 8).map v.getLsbD := rfl

theorem writeByteTrace_eq_flatMap_range (p : Params) (v : Byte) :
    writeByteTrace p v = (List.range 8).flatMap fun k => writeBitTrace p (v.getLsbD k) := by
  rw [writeByteTrace, byteBits_eq_map_range, List.flatMap_map]

theorem readByteTrace_eq_flatMap_range (p : Params) (v : Byte) :
    readByteTrace p v = (List.range 8).flatMap fun k => readBitTrace p (v.getLsbD k) := by
  rw [readByteTrace, byteBits_eq_map_range, List.flatMap_map]

theorem getLsbD_byteOfBits {bs : List Bool} (h : bs.length = 8) {k : Nat} (hk : k < 8) :
    (byteOfBits bs).getLsbD k = bs.getD k false := by
  have hbits : (List.range 8).map (byteOfBits bs).getLsbD = bs := byteBits_byteOfBits h
  calc (byteOfBits bs).getLsbD k
      = ((List.range 8).map (byteOfBits bs).getLsbD).getD k false := by simp [hk]
    _ = bs.getD k false := by rw [hbits]

/-! ### WRITEBYTE (R141) -/

theorem writeBitTrace_params (b : Bool) :
    writeBitTrace params b =
      if b then [.driveLow, .wait 6, .release, .wait 64] else [.driveLow, .wait 60, .release, .wait 10] := by
  cases b
  · exact Slots.writeBitTrace_params_false
  · exact Slots.writeBitTrace_params_true

/-- `writeByte_eq` between `beginCommand` and `finishCommand`. -/
theorem exec_writeByte_eq (v : Byte) {s : State} (h : s.init = true) :
    exec (.writeByte v) s =
      .next { s with
        busDrive := .released
        trace := []
        env := envAfterBits s.config (byteBits v) s.env
        observations :=
          s.observations ++
            [⟨.writeByte v, .unit, (List.range 8).flatMap fun k => writeBitTrace s.config (v.getLsbD k)⟩] } := by
  rw [exec, execWriteByte, command_next h, ← writeByteTrace_eq_flatMap_range, writeByte_eq]
  rfl

/-- Settles O25: `exec_writeByte_eq`, and that a written bit uses up no draw. -/
theorem writeByteSendsLsbFirst : Obligations.WriteByteSendsLsbFirst := by
  unfold Obligations.WriteByteSendsLsbFirst
  refine ⟨fun v8 => Encoding.decode_encode (i := .writeByte v8) rfl,
    fun v8 s hinit => ⟨_, exec_writeByte_eq v8 hinit, fun ds hdraws => ?_⟩, writeBitTrace_params,
    fun v8 s hinit => CoreState.exec_before_init nofun hinit⟩
  rw [hdraws, envAfterBits_draws]

/-! ### READBYTE (R143) -/

/-- The byte whose bits are the samples of the next eight read slots. -/
def nextByte (s : State) : Byte :=
  byteOfBits (readRun s.config (keepsBudget s.config s.timing) 8 s.env s.sampleCount)

/-- `readByte_eq` between `beginCommand` and `finishCommand`. -/
theorem exec_readByte_eq {s : State} (h : s.init = true) :
    exec .readByte s =
      .next { s with
        busDrive := .released
        trace := []
        env := envAfterReads s.config 8 s.env
        sampleCount := s.sampleCount + 8
        observations :=
          s.observations ++
            [⟨.readByte, .byte (nextByte s),
              (List.range 8).flatMap fun k => readBitTrace s.config ((nextByte s).getLsbD k)⟩] } := by
  rw [exec, execReadByte, command_next h, ← readByteTrace_eq_flatMap_range, readByte_eq]
  rfl

/-- With eight draws fixed the byte is made of them, and they are used up (R59). -/
theorem nextByte_of_draws {s : State} {bits ds : List Bool} (hlen : bits.length = 8)
    (henv : s.env = .draws (bits ++ ds)) :
    envAfterReads s.config 8 s.env = .draws ds ∧ ∀ k, k < 8 → (nextByte s).getLsbD k = bits.getD k false := by
  have hbyte : nextByte s = byteOfBits bits := by rw [nextByte, henv, ← hlen, readRun_draws]
  refine ⟨by rw [henv, ← hlen, envAfterReads_draws], fun k hk => ?_⟩
  rw [hbyte, getLsbD_byteOfBits hlen hk]

/-- On the empty bus every slot on time samples 1, and the bus stays empty (R66, R120). -/
theorem nextByte_of_emptyBus {s : State} (htime : OnTime s) (hbus : s.env = .reference []) :
    nextByte s = 0xFF#8 ∧ envAfterReads s.config 8 s.env = .reference [] := by
  rw [nextByte, hbus, Memory.keepsBudget_of_onTime htime, Memory.readRun_emptyBus]
  exact ⟨Memory.byteOfBits_ones, Memory.envAfterReads_emptyBus s.config 8⟩

/-- Settles O26: `exec_readByte_eq`, and what the byte is on fixed draws and on the empty bus. -/
theorem readByteAssemblesLsbFirst : Obligations.ReadByteAssemblesLsbFirst := by
  unfold Obligations.ReadByteAssemblesLsbFirst
  exact ⟨Encoding.decode_encode (i := .readByte) rfl,
    fun s hinit => ⟨_, _, exec_readByte_eq hinit, fun _ _ => nextByte_of_draws, nextByte_of_emptyBus⟩,
    Slots.readBitTrace_params, fun s hinit => CoreState.exec_before_init nofun hinit⟩

end Sys2Proof.Proofs.ByteTransport
end

section
/-! SUPPORT. The statements on the CRC engine (42_crc8.md): the register is linear, so a byte acts on it by XOR, and a
polynomial of degree 8 makes every round invertible. -/

namespace Sys2Proof.Proofs.Crc

open Sys2Proof.Machine Sys2Proof.Safety

variable (p : Params)

/-! ### One round (R160) -/

theorem crc8Bit_eq (crc : Byte) (d : Bool) :
    crc8Bit p crc d = (crc >>> 1) ^^^ (if d ≠ crc.getLsbD 0 then p.crcPoly else 0x00#8) := by
  unfold crc8Bit
  by_cases h : d = crc.getLsbD 0
  · simp [h]
  · simp only [Bool.xor, bne_iff_ne, ne_eq, h, not_false_eq_true, if_true]

/-- A 0 into the empty register leaves it empty. -/
theorem crc8Bit_zero : crc8Bit p 0x00#8 false = 0x00#8 := rfl

/-- The register is linear: a difference in its bits that the data bit makes up for only moves right (R166 item 3). -/
theorem crc8Bit_xor (crc e : Byte) :
    crc8Bit p (crc ^^^ e) (e.getLsbD 0) = crc8Bit p crc false ^^^ (e >>> 1) := by
  have hnew : (e.getLsbD 0 ≠ (crc ^^^ e).getLsbD 0) ↔ (false ≠ crc.getLsbD 0) := by
    rw [BitVec.getLsbD_xor]
    cases e.getLsbD 0 <;> cases crc.getLsbD 0 <;> decide
  simp only [crc8Bit_eq, hnew, BitVec.ushiftRight_xor_distrib]
  ac_rfl

/-- With the polynomial's bit 7 set, bit 7 of the register says whether the round put the polynomial in. -/
theorem crc8Bit_getLsbD_seven {p : Params} (hp : p.crcPoly.getLsbD 7 = true) (crc : Byte) (d : Bool) :
    (crc8Bit p crc d).getLsbD 7 = (d ^^ crc.getLsbD 0) := by
  rw [crc8Bit_eq]
  cases d <;> cases crc.getLsbD 0 <;> simp [hp]

/-- So a round can be taken back: no two registers become one. -/
theorem crc8Bit_injective {p : Params} (hp : p.crcPoly.getLsbD 7 = true) (d : Bool) :
    Function.Injective (crc8Bit p · d) := by
  intro a b h
  have hbit : a.getLsbD 0 = b.getLsbD 0 := by
    have htop := congrArg (·.getLsbD 7) h
    simpa only [crc8Bit_getLsbD_seven hp, Bool.xor_right_inj] using htop
  have hshift : a >>> 1 = b >>> 1 := by
    simpa only [crc8Bit_eq, hbit, BitVec.xor_left_inj] using h
  refine BitVec.eq_of_getLsbD_eq fun i _ => ?_
  match i with
  | 0 => exact hbit
  | i + 1 => simpa [Nat.add_comm] using congrArg (·.getLsbD i) hshift

/-! ### One byte (R160) -/

/-- The register after the first `k` bits of a byte. -/
def crcAfterBits (crc d : Byte) (k : Nat) : Byte :=
  (List.range k).foldl (fun r i => crc8Bit p r (d.getLsbD i)) crc

@[simp] theorem crcAfterBits_zero (crc d : Byte) : crcAfterBits p crc d 0 = crc := rfl

theorem crcAfterBits_succ (crc d : Byte) (k : Nat) :
    crcAfterBits p crc d (k + 1) = crc8Bit p (crcAfterBits p crc d k) (d.getLsbD k) := by
  rw [crcAfterBits, List.range_succ, List.foldl_append]
  rfl

theorem crcAfterBits_eight (crc d : Byte) : crcAfterBits p crc d 8 = crc8Update p crc d := by
  rw [crc8Update, ByteTransport.byteBits_eq_map_range, List.foldl_map]
  rfl

/-- A byte's bits still to come stand as a difference in the register. -/
theorem crcAfterBits_eq_xor (crc d : Byte) (k : Nat) :
    crcAfterBits p crc d k = crcAfterBits p (crc ^^^ d) 0x00#8 k ^^^ (d >>> k) := by
  induction k with
  | zero => simp
  | succ k ih =>
    have hbit : d.getLsbD k = (d >>> k).getLsbD 0 := by simp
    rw [crcAfterBits_succ, crcAfterBits_succ, ih, hbit, crc8Bit_xor, BitVec.getLsbD_zero, ← BitVec.shiftRight_add]

/-- A byte acts on the register by XOR, then come eight rounds of 0. -/
theorem crc8Update_eq_xor (crc d : Byte) : crc8Update p crc d = crc8Update p (crc ^^^ d) 0x00#8 := by
  have hout : d >>> 8 = 0x00#8 := BitVec.ushiftRight_eq_zero (Nat.le_refl 8)
  simpa only [crcAfterBits_eight, hout, BitVec.xor_zero] using crcAfterBits_eq_xor p crc d 8

theorem crcAfterBits_zero_zero (k : Nat) : crcAfterBits p 0x00#8 0x00#8 k = 0x00#8 := by
  induction k with
  | zero => rfl
  | succ k ih => rw [crcAfterBits_succ, ih, BitVec.getLsbD_zero, crc8Bit_zero]

theorem crc8Update_zero : crc8Update p 0x00#8 0x00#8 = 0x00#8 := by
  rw [← crcAfterBits_eight, crcAfterBits_zero_zero]

/-- The register fed to itself empties. -/
theorem crc8Update_self (crc : Byte) : crc8Update p crc crc = 0x00#8 := by
  rw [crc8Update_eq_xor, BitVec.xor_self, crc8Update_zero]

section invertible

variable {p} (hp : p.crcPoly.getLsbD 7 = true)
include hp

theorem crc8Update_injective (d : Byte) : Function.Injective (crc8Update p · d) := by
  unfold crc8Update
  induction byteBits d with
  | nil => exact Function.injective_id
  | cons b bs ih => exact ih.comp (crc8Bit_injective hp b)

theorem crc8Update_injective_byte (crc : Byte) : Function.Injective (crc8Update p crc) := by
  intro d e h
  rw [crc8Update_eq_xor p crc d, crc8Update_eq_xor p crc e] at h
  exact (BitVec.xor_right_inj _).mp (crc8Update_injective hp 0x00#8 h)

theorem foldl_crc8Update_injective (bytes : List Byte) : Function.Injective (bytes.foldl (crc8Update p)) := by
  induction bytes with
  | nil => exact Function.injective_id
  | cons d ds ih => exact ih.comp (crc8Update_injective hp d)

/-- Two strings that differ in one byte differ in their CRC, whatever the difference. -/
theorem crc8_set_injective {data : List Byte} {j : Nat} (hj : j < data.length) :
    Function.Injective fun v => crc8 p (data.set j v) := by
  intro v w h
  simp only [crc8, List.set_eq_take_append_cons_drop, if_pos hj, List.foldl_append, List.foldl_cons] at h
  exact crc8Update_injective_byte hp _ (foldl_crc8Update_injective hp _ h)

end invertible

/-! ### Byte strings (R161) -/

theorem crc8_append_singleton (data : List Byte) (d : Byte) :
    crc8 p (data ++ [d]) = crc8Update p (crc8 p data) d := by
  rw [crc8, List.foldl_append]
  rfl

theorem crc8_append_self (data : List Byte) : crc8 p (data ++ [crc8 p data]) = 0x00#8 := by
  rw [crc8_append_singleton, crc8Update_self]

variable {p}

theorem crc8_replicate_zero (hinit : p.crcInit = 0x00#8) (n : Nat) : crc8 p (List.replicate n 0x00#8) = 0x00#8 := by
  induction n with
  | zero => exact hinit
  | succ n ih => rw [List.replicate_succ', crc8_append_singleton, ih, crc8Update_zero]

/-- An all-zero frame passes its check (R166 item 5). -/
theorem padOk_zeros (hinit : p.crcInit = 0x00#8) : padOk p (decodeFrame (List.replicate 9 0x00#8)) = true :=
  beq_iff_eq.mpr (crc8_replicate_zero hinit 8)

/-- An all-zero ROM code passes its check (R166 item 5), in either byte order. -/
theorem romOk_zero (hinit : p.crcInit = 0x00#8) : romOk p 0#64 = true := by
  have hcrc : romCrc p 0#64 = 0x00#8 := by
    cases horder : p.romCrcOrder <;> simp only [romCrc, horder] <;> exact crc8_replicate_zero hinit 7
  rw [romOk_eq, hcrc]
  rfl

/-! ### The statements -/

/-- CRC8 between `beginCommand` and `finishCommand` (R162). -/
theorem exec_crc8_eq (data : List Byte) {s : State} (h : s.init = true) :
    exec (.crc8 data) s =
      .next { s with
        trace := []
        observations := s.observations ++ [⟨.crc8 data, .byte (crc8 s.config data), []⟩] } := by
  rw [exec, execCrc8, command_next h]
  rfl

/-- Settles O27: `exec_crc8_eq`, and the register's rounds are `crcAfterBits`. -/
theorem crc8CommandReturnsCrc : Obligations.Crc8CommandReturnsCrc := by
  unfold Obligations.Crc8CommandReturnsCrc
  refine ⟨fun data s hinit => exec_crc8_eq data hinit, fun _ => rfl, crc8_append_singleton, fun p crc d => ?_, rfl, rfl,
    fun data s hinit => CoreState.exec_before_init nofun hinit⟩
  refine ⟨crcAfterBits p crc d, crcAfterBits_zero p crc d, crcAfterBits_eight p crc d, fun k _ => ?_⟩
  rw [crcAfterBits_succ, crc8Bit_eq]

/-- Settles O28: the register fed to itself empties, and zeros never fill it. -/
theorem crcOfCrcIsZero : Obligations.CrcOfCrcIsZero := by
  unfold Obligations.CrcOfCrcIsZero
  have hones : crc8 params (List.replicate 8 0xFF#8) = 0xC9#8 := by decide +kernel
  exact ⟨crc8_append_self params, crc8_replicate_zero rfl, padOk_zeros rfl, romOk_zero rfl, hones, Memory.padOk_ones⟩

/-- Settles O29: a flipped bit is a changed byte, and `crc8_set_injective`. -/
theorem singleBitFlipChangesCrc : Obligations.SingleBitFlipChangesCrc := by
  unfold Obligations.SingleBitFlipChangesCrc
  intro data j k hj hk
  have hflip : data.getD j 0#8 ^^^ (1#8 <<< k) ≠ data[j] := by
    rw [List.getD_eq_getElem _ _ hj]
    intro h
    have hbit := congrArg (·.getLsbD k) h
    simp [hk] at hbit
  intro hcrc
  rw [← congrArg (crc8 params) (List.set_getElem_self hj)] at hcrc
  exact hflip (crc8_set_injective rfl hj hcrc)

end Sys2Proof.Proofs.Crc
end

section
/-! SUPPORT. The statements on the ROM search (43_rom_search.md): the answers that need no pass, and how a pass ends on fixed
draws. -/

namespace Sys2Proof.Proofs.RomSearch

open Sys2Proof.Machine Sys2Proof.Safety

/-! ### START_SEARCH, and SEARCH_STEP where it makes no pass (R180, R182, R183) -/

/-- `startCursor` between `beginCommand` and `finishCommand`. -/
theorem exec_startSearch_eq {s : State} (h : s.init = true) :
    exec .startSearch s =
      .next { s with
        lastDiscrepancy := -1
        romAcc := 0#64
        searchState := .running
        trace := []
        observations := s.observations ++ [⟨.startSearch, .unit, []⟩] } := by
  rw [exec, execStartSearch, command_next h]
  rfl

/-- Settles O30: `exec_startSearch_eq`, and the refusal before INIT. -/
theorem startSearchResetsCursor : Obligations.StartSearchResetsCursor := by
  unfold Obligations.StartSearchResetsCursor
  exact ⟨Encoding.decode_encode (i := .startSearch) rfl, fun s hinit => exec_startSearch_eq hinit,
    fun s hinit => CoreState.exec_before_init nofun hinit⟩

/-- Settles O31: the refusal comes before the body (R309). -/
theorem searchStepBeforeStartIsRefused : Obligations.SearchStepBeforeStartIsRefused := by
  unfold Obligations.SearchStepBeforeStartIsRefused
  intro s hinit hstate
  rw [execSearchStep_eq, if_pos ⟨hinit, hstate⟩]
  rfl

/-- Once a search has started, SEARCH_STEP is `searchStep` between `beginCommand` and `finishCommand`. -/
theorem exec_searchStep_started {s : State} (hinit : s.init = true) (hstarted : s.searchState ≠ .notStarted) :
    exec .searchStep s =
      .next (finishCommand .searchStep (.outcome (searchStep s.config (beginCommand s)).1)
        (searchStep s.config (beginCommand s)).2) := by
  rw [execSearchStep_eq, if_neg fun h => hstarted h.2, command_next hinit]
  rfl

/-- A search step whose body returns the state it began in has an empty trace and writes nothing (R182). -/
theorem exec_searchStep_of_returns {s : State} {o : SearchOutcome} (hinit : s.init = true)
    (hstarted : s.searchState ≠ .notStarted) (h : searchStep s.config (beginCommand s) = (o, beginCommand s)) :
    exec .searchStep s =
      .next { s with trace := [], observations := s.observations ++ [⟨.searchStep, .outcome o, []⟩] } := by
  rw [exec_searchStep_started hinit hstarted, h]
  rfl

/-- Settles O32: the body of a search step returns each terminal state's tag with the state it began in. -/
theorem terminalSearchStepReturnsTag : Obligations.TerminalSearchStepReturnsTag := by
  unfold Obligations.TerminalSearchStepReturnsTag
  intro s hinit
  refine ⟨fun h => ?_, fun h => ?_, fun h => ?_⟩ <;>
    exact exec_searchStep_of_returns hinit (by simp [h]) (by simp [searchStep, h])

/-- In state Running SEARCH_STEP is one pass between `beginCommand` and `finishCommand` (R192). -/
theorem exec_searchStep_running {s : State} (hinit : s.init = true) (hrunning : s.searchState = .running) :
    exec .searchStep s =
      .next (finishCommand .searchStep (.outcome (searchPass s.config (beginCommand s)).1)
        (searchPass s.config (beginCommand s)).2) := by
  rw [exec_searchStep_started hinit (by simp [hrunning]), CoreState.searchStep_running _ (s := beginCommand s) hrunning]

/-! ### A pass without presence (R184) -/

/-- Where the presence window samples 1, the pass is the reset slot alone. -/
theorem exec_searchStep_noPresence {s : State} (hinit : s.init = true) (hrunning : s.searchState = .running)
    (hsample : Slots.slotSample .reset s = true) :
    exec .searchStep s =
      .next { s with
        searchState := .noDevicePresent
        err := .noDevicePresent
        presence := false
        busDrive := .released
        trace := []
        env := Slots.envAfterSampledSlot .reset s
        sampleCount := s.sampleCount + 1
        observations :=
          s.observations ++ [⟨.searchStep, .outcome .noDevicePresent, resetTrace s.config true⟩] } := by
  have hpresent : (slotReset s.config (beginCommand s)).1 = false := by
    rw [slotReset_fst]
    exact congrArg not hsample
  rw [exec_searchStep_running hinit hrunning]
  simp only [searchPass, hpresent, Bool.false_eq_true, if_false]
  rw [slotReset_snd, hpresent]
  rfl

/-- Settles O33: `exec_searchStep_noPresence`, and what the sample is on a draw of 1 and on the empty bus. -/
theorem searchPassWithoutPresence : Obligations.SearchPassWithoutPresence := by
  unfold Obligations.SearchPassWithoutPresence
  intro s env hinit hrunning henv
  have hslot : Slots.slotSample .reset s = true ∧ Slots.envAfterSampledSlot .reset s = env := by
    rcases henv with ⟨ds, hdraws, rfl⟩ | ⟨htime, hbus, rfl⟩
    · exact Slots.slotSample_of_draws .reset hdraws
    · exact Slots.slotSample_of_emptyBus .reset htime hbus
  obtain ⟨hsample, rfl⟩ := hslot
  exact exec_searchStep_noPresence hinit hrunning hsample

/-! ### The highest recorded zero (R190) -/

/-- `lz` is the highest position below `n` with property `P`, or −1 where there is none: how R190 and R193 say what the
last-zero candidate is. -/
def HighestOrNone (P : Nat → Prop) (n : Nat) (lz : Int) : Prop :=
  (lz = -1 ∧ ∀ i, i < n → ¬P i) ∨ ∃ j : Nat, lz = j ∧ j < n ∧ P j ∧ ∀ i, j < i → i < n → ¬P i

theorem highestOrNone_zero (P : Nat → Prop) : HighestOrNone P 0 (-1) :=
  .inl ⟨rfl, fun i hi => absurd hi i.not_lt_zero⟩

theorem HighestOrNone.succ_of {P : Nat → Prop} {n : Nat} (h : P n) : HighestOrNone P (n + 1) n :=
  .inr ⟨n, rfl, n.lt_succ_self, h, fun i hlow hhigh => by omega⟩

theorem HighestOrNone.succ_of_not {P : Nat → Prop} {n : Nat} {lz : Int} (hlz : HighestOrNone P n lz) (h : ¬P n) :
    HighestOrNone P (n + 1) lz := by
  have hnone {i : Nat} (hi : i < n + 1) (hbelow : i < n → ¬P i) : ¬P i := by
    rcases Nat.lt_succ_iff_lt_or_eq.mp hi with hlt | rfl
    · exact hbelow hlt
    · exact h
  rcases hlz with ⟨rfl, hall⟩ | ⟨j, rfl, hj, hP, habove⟩
  · exact .inl ⟨rfl, fun i hi => hnone hi (hall i)⟩
  · exact .inr ⟨j, rfl, by omega, hP, fun i hlow hi => hnone hi (habove i hlow)⟩

theorem recordsZero_iff (rule : ZeroRule) (ld : Int) (i : Nat) (dir : Bool) :
    recordsZero rule ld i dir = true ↔ dir = false ∧ (rule = .newOnly → ld < (i : Int)) := by
  cases rule <;> simp [recordsZero]

/-- A position whose discrepancy is recorded becomes the candidate, and any other keeps it (R188, R190). -/
theorem HighestOrNone.nextLastZero {P : Nat → Prop} {rule : ZeroRule} {ld lz : Int} {acc : RomCode} {i : Nat}
    {b1 b2 : Bool} (hlz : HighestOrNone P i lz)
    (hP : P i ↔ b1 = b2 ∧ recordsZero rule ld i (directionBit ld acc i b1 b2) = true) :
    HighestOrNone P (i + 1) (nextLastZero rule ld acc i b1 b2 lz) := by
  unfold Machine.nextLastZero
  unfold directionBit at hP
  by_cases hpair : b1 = b2
  · simp only [hpair, if_true, true_and] at hP ⊢
    split
    case isTrue hrecords => exact .succ_of (hP.mpr hrecords)
    case isFalse hrecords => exact hlz.succ_of_not (mt hP.mp hrecords)
  · rw [if_neg hpair]
    exact hlz.succ_of_not fun h => hpair (hP.mp h).1

/-! ### The positions of a pass on fixed draws (R186 to R191) -/

section positions

variable (p : Params) (rule : ZeroRule) (ld lz : Int) (b : Bool × Bool) (bs : List (Bool × Bool))

/-- The last of several positions sets its own bit of the accumulator. -/
theorem accAfter_concat (i : Nat) (acc : RomCode) :
    accAfter ld i (bs ++ [b]) acc =
      setBit (accAfter ld i bs acc) (i + bs.length)
        (directionBit ld (accAfter ld i bs acc) (i + bs.length) b.1 b.2) := by
  induction bs generalizing i acc with
  | nil => rfl
  | cons c cs ih => simp [accAfter, ih, Nat.add_assoc, Nat.add_comm 1]

theorem lastZeroAfter_concat (i : Nat) (acc : RomCode) :
    lastZeroAfter rule ld i (bs ++ [b]) acc lz =
      nextLastZero rule ld (accAfter ld i bs acc) (i + bs.length) b.1 b.2 (lastZeroAfter rule ld i bs acc lz) := by
  induction bs generalizing i acc lz with
  | nil => rfl
  | cons c cs ih => simp [accAfter, lastZeroAfter, ih, Nat.add_assoc, Nat.add_comm 1]

theorem traceOfPairs_concat (i : Nat) (acc : RomCode) :
    traceOfPairs p ld i (bs ++ [b]) acc =
      traceOfPairs p ld i bs acc ++
        (readBitTrace p b.1 ++ readBitTrace p b.2 ++
          writeBitTrace p (directionBit ld (accAfter ld i bs acc) (i + bs.length) b.1 b.2)) := by
  induction bs generalizing i acc with
  | nil => simp [traceOfPairs, accAfter]
  | cons c cs ih => simp [accAfter, traceOfPairs, ih, Nat.add_assoc, Nat.add_comm 1]

variable (acc : RomCode) (pairs : List (Bool × Bool))

theorem take_succ_pairs {n : Nat} (hn : n < pairs.length) : pairs.take (n + 1) = pairs.take n ++ [pairAt pairs n] := by
  rw [pairAt, List.getD_eq_getElem _ _ hn, List.take_succ_eq_append_getElem hn]

variable {pairs} (hlength : pairs.length ≤ 64)
include hlength

/-- After `n` positions the accumulator holds their directions, and its own bits from there on (R191). -/
theorem getLsbD_accAfter_take {n : Nat} (hn : n ≤ pairs.length) {i : Nat} (hi : i < 64) :
    (accAfter ld 0 (pairs.take n) acc).getLsbD i = if i < n then directionAt ld acc pairs i else acc.getLsbD i := by
  induction n generalizing i with
  | zero => rfl
  | succ n ih =>
    have hbit := ih (by omega) (i := n) (by omega)
    rw [if_neg n.lt_irrefl] at hbit
    rw [take_succ_pairs pairs hn, accAfter_concat, List.length_take_of_le (by omega), Nat.zero_add,
      directionBit_eq_directionAt ld _ acc n pairs hbit, getLsbD_setBit _ _ _ _ (by omega) hi, ih (by omega) hi]
    rcases Nat.lt_trichotomy i n with hlt | rfl | hgt
    · rw [if_neg hlt.ne, if_pos hlt, if_pos (by omega)]
    · rw [if_pos rfl, if_pos (by omega)]
    · rw [if_neg hgt.ne', if_neg (by omega), if_neg (by omega)]

/-- So position `n` takes the direction that R188 and R189 give from the accumulator at the pass's entry. -/
theorem directionBit_accAfter_take {n : Nat} (hn : n < pairs.length) :
    directionBit ld (accAfter ld 0 (pairs.take n) acc) n (pairAt pairs n).1 (pairAt pairs n).2 =
      directionAt ld acc pairs n := by
  apply directionBit_eq_directionAt
  rw [getLsbD_accAfter_take ld acc hlength (by omega) (by omega), if_neg n.lt_irrefl]

theorem traceOfPairs_take {n : Nat} (hn : n ≤ pairs.length) :
    traceOfPairs p ld 0 (pairs.take n) acc = positionsTrace p ld acc pairs n := by
  induction n with
  | zero => rfl
  | succ n ih =>
    rw [take_succ_pairs pairs hn, traceOfPairs_concat, ih (by omega), List.length_take_of_le (by omega), Nat.zero_add,
      directionBit_accAfter_take ld acc hlength hn, positionsTrace, positionsTrace, List.range_succ, List.flatMap_append,
      List.flatMap_singleton]

variable (hpairs : ∀ b ∈ pairs, b ≠ (true, true))
include hpairs

omit hlength in
/-- A recorded zero is a pair of two zeros whose direction is recorded: with two ones left out, equal bits are zeros. -/
theorem recordsZero_iff_pair {n : Nat} (hn : n < pairs.length) :
    RecordsZero rule ld acc pairs n ↔
      (pairAt pairs n).1 = (pairAt pairs n).2 ∧ recordsZero rule ld n (directionAt ld acc pairs n) = true := by
  have hpair : pairAt pairs n ≠ (true, true) := by
    rw [pairAt, List.getD_eq_getElem _ _ hn]
    exact hpairs _ (List.getElem_mem hn)
  have hequal : (pairAt pairs n).1 = (pairAt pairs n).2 ↔ pairAt pairs n = (false, false) := by
    rcases h : pairAt pairs n with ⟨_ | _, _ | _⟩ <;> simp_all
  rw [RecordsZero, hequal, recordsZero_iff]

/-- After `n` positions the candidate is the highest recorded one of them (R190). -/
theorem highestOrNone_lastZeroAfter_take {n : Nat} (hn : n ≤ pairs.length) :
    HighestOrNone (RecordsZero rule ld acc pairs) n (lastZeroAfter rule ld 0 (pairs.take n) acc (-1)) := by
  induction n with
  | zero => exact highestOrNone_zero _
  | succ n ih =>
    rw [take_succ_pairs pairs hn, lastZeroAfter_concat, List.length_take_of_le (by omega), Nat.zero_add]
    refine (ih (by omega)).nextLastZero ?_
    rw [directionBit_accAfter_take ld acc hlength hn]
    exact recordsZero_iff_pair rule ld acc hpairs hn

end positions

/-! ### A pass that finds presence, on fixed draws (R184 to R195) -/

/-- A draw of 0 in the presence window, and the pass goes on to its positions (R184, R185). -/
theorem passStart_draws (p : Params) {s : State} {ds : List Bool} (henv : s.env = .draws (false :: ds)) :
    (slotReset p s).1 = true ∧
      sendWire p .searchRom (slotReset p s).2 =
        { s with
          presence := true
          busDrive := .released
          trace := s.trace ++ (resetTrace p false ++ writeByteTrace p 0xF0#8)
          env := .draws ds
          sampleCount := s.sampleCount + 1 } := by
  have hpresent : (slotReset p s).1 = true := by
    rw [slotReset_fst, henv]
    rfl
  refine ⟨hpresent, ?_⟩
  rw [sendWire, writeByte_eq, slotReset_snd, hpresent, henv]
  simp [wireByte, envAfterSlot, envAfterSample]

/-- A pair of two ones ends the positions, with no write slot after it (R187). -/
theorem searchPositions_twoOnes (p : Params) (ld lz : Int) (m i : Nat) {s : State} {ds : List Bool}
    (henv : s.env = .draws (true :: true :: ds)) :
    searchPositions p ld (m + 1) i lz s =
      (none,
        { s with
          busDrive := .released
          trace := s.trace ++ (readBitTrace p true ++ readBitTrace p true)
          env := .draws ds
          sampleCount := s.sampleCount + 2 }) := by
  have hfirst : (slotRead p s).1 = true := by
    rw [slotRead_fst, henv]
    rfl
  have hsecond : (slotRead p (slotRead p s).2).1 = true := by
    rw [slotRead_fst, slotRead_snd, henv]
    rfl
  simp only [searchPositions, hfirst, hsecond, Bool.and_self, if_true]
  rw [slotRead_snd, hsecond, slotRead_snd, hfirst, henv]
  simp [envAfterSlot, envAfterSample]

section slotCounts

variable (p : Params)

@[simp] theorem slotCount_writeBitTrace (b : Bool) : slotCount (writeBitTrace p b) = 1 := by
  cases b <;> rfl

@[simp] theorem slotCount_readBitTrace (v : Bool) : slotCount (readBitTrace p v) = 1 := rfl

@[simp] theorem slotCount_resetTrace (v : Bool) : slotCount (resetTrace p v) = 1 := rfl

@[simp] theorem slotCount_writeByteTrace (v : Byte) : slotCount (writeByteTrace p v) = 8 := by
  simp [writeByteTrace, byteBits]

/-- Three slots per position: two read, one written (R196). -/
@[simp] theorem slotCount_positionsTrace (ld : Int) (acc : RomCode) (pairs : List (Bool × Bool)) (n : Nat) :
    slotCount (positionsTrace p ld acc pairs n) = 3 * n := by
  induction n with
  | zero => rfl
  | succ n ih =>
    rw [positionsTrace] at ih ⊢
    rw [List.range_succ, List.flatMap_append, slotCount_append, ih, List.flatMap_singleton]
    simp [Nat.mul_succ]

end slotCounts

/-- Pairs that are not two ones, and then two ones: the pass aborts (R187). -/
theorem searchPass_twoOnes {p : Params} {s : State} {pairs : List (Bool × Bool)} {ds : List Bool}
    (hbits : p.romBits = 64) (hlength : pairs.length < 64) (hpairs : ∀ b ∈ pairs, b ≠ (true, true))
    (henv : s.env = .draws (false :: (pairSamples pairs ++ true :: true :: ds))) :
    searchPass p s =
      (.noDevicePresent,
        { s with
          searchState := .noDevicePresent
          err := .noDeviceResponse
          presence := true
          romAcc := accAfter s.lastDiscrepancy 0 pairs s.romAcc
          busDrive := .released
          trace := s.trace ++ (resetTrace p false ++ writeByteTrace p 0xF0#8 ++
            positionsTrace p s.lastDiscrepancy s.romAcc pairs pairs.length ++
            readBitTrace p true ++ readBitTrace p true)
          env := .draws ds
          sampleCount := s.sampleCount + 1 + 2 * (pairs.length + 1) }) := by
  obtain ⟨hpresent, hstart⟩ := passStart_draws p henv
  obtain ⟨m, hm⟩ : ∃ m, 64 = pairs.length + (m + 1) := ⟨63 - pairs.length, by omega⟩
  have htrace := traceOfPairs_take p s.lastDiscrepancy s.romAcc hlength.le (Nat.le_refl _)
  rw [List.take_length] at htrace
  simp only [searchPass, hpresent, if_true]
  rw [hstart, hbits, hm, searchPositions_draws p _ _ _ _ pairs _ _ hpairs rfl rfl, searchPositions_twoOnes p _ _ _ _ rfl]
  simp [endSearch, htrace, Nat.mul_succ, Nat.add_assoc]

/-- Settles O34: `searchPass_twoOnes`, and the accumulator by `getLsbD_accAfter_take`. -/
theorem searchPassAbortsOnTwoOnes : Obligations.SearchPassAbortsOnTwoOnes := by
  unfold Obligations.SearchPassAbortsOnTwoOnes
  intro s pairs ds hinit hrunning ⟨hbits, _⟩ hlength hpairs henv
  refine ⟨accAfter s.lastDiscrepancy 0 pairs s.romAcc, _, ?_, rfl, ?_, fun i hi => ?_⟩
  · rw [exec_searchStep_running hinit hrunning, searchPass_twoOnes (s := beginCommand s) hbits hlength hpairs henv]
    rfl
  · simp only [slotCount_append, slotCount_resetTrace, slotCount_writeByteTrace, slotCount_positionsTrace,
      slotCount_readBitTrace]
  · have hbit := getLsbD_accAfter_take s.lastDiscrepancy s.romAcc hlength.le (Nat.le_refl _) hi
    rwa [List.take_length] at hbit

/-- The end of a full pass by its two cases, code found or check failed (R193 to R195). -/
theorem concludePass_eq (p : Params) (lz : Int) (s : State) :
    concludePass p lz s =
      (if romOk p s.romAcc then .found s.romAcc else .checksumMismatch,
        { s with
          searchState :=
            if romOk p s.romAcc then (if lz = -1 then .done else s.searchState) else .checksumMismatch
          err := if romOk p s.romAcc then .none else .checksumMismatch
          lastDiscrepancy := lz }) := by
  rcases concludePass_cases p lz s with ⟨hok, h⟩ | ⟨hok, h⟩ <;> rw [h, hok] <;> rfl

/-- Sixty-four pairs that are not two ones: the pass goes to its end (R188 to R195). -/
theorem searchPass_full {p : Params} {s : State} {pairs : List (Bool × Bool)} {ds : List Bool}
    (hbits : p.romBits = 64) (hlength : pairs.length = 64) (hpairs : ∀ b ∈ pairs, b ≠ (true, true))
    (henv : s.env = .draws (false :: (pairSamples pairs ++ ds))) :
    searchPass p s =
      concludePass p (lastZeroAfter p.zeroRule s.lastDiscrepancy 0 pairs s.romAcc (-1))
        { s with
          presence := true
          romAcc := accAfter s.lastDiscrepancy 0 pairs s.romAcc
          busDrive := .released
          trace := s.trace ++ (resetTrace p false ++ writeByteTrace p 0xF0#8 ++
            positionsTrace p s.lastDiscrepancy s.romAcc pairs 64)
          env := .draws ds
          sampleCount := s.sampleCount + 129 } := by
  obtain ⟨hpresent, hstart⟩ := passStart_draws p henv
  have htrace := traceOfPairs_take p s.lastDiscrepancy s.romAcc hlength.le (Nat.le_refl _)
  rw [List.take_length, hlength] at htrace
  have hpos := searchPositions_draws p s.lastDiscrepancy 0 0 (-1) pairs ds _ hpairs
    (congrArg State.env hstart) (congrArg State.busDrive hstart)
  rw [hlength, Nat.add_zero, searchPositions] at hpos
  simp only [searchPass, hpresent, if_true]
  rw [hbits, hpos, hstart]
  simp [htrace]

/-- Settles O35: `searchPass_full` with `concludePass_eq`; the directions are `getLsbD_accAfter_take`'s and the last
discrepancy `highestOrNone_lastZeroAfter_take`'s. -/
theorem fullSearchPassFollowsDiscrepancies : Obligations.FullSearchPassFollowsDiscrepancies := by
  unfold Obligations.FullSearchPassFollowsDiscrepancies
  intro s pairs ds hinit hrunning ⟨hbits, _⟩ hlength hpairs henv
  have htake : pairs.take 64 = pairs := by rw [← hlength, List.take_length]
  refine ⟨accAfter s.lastDiscrepancy 0 pairs s.romAcc,
    lastZeroAfter s.config.zeroRule s.lastDiscrepancy 0 pairs s.romAcc (-1), fun i hi => ?_, ?_, ?_⟩
  · have hbit := getLsbD_accAfter_take s.lastDiscrepancy s.romAcc hlength.le hlength.ge hi
    rwa [htake, if_pos hi] at hbit
  · have hhighest := highestOrNone_lastZeroAfter_take s.config.zeroRule s.lastDiscrepancy s.romAcc hlength.le hpairs
      hlength.ge
    rwa [htake] at hhighest
  · rw [exec_searchStep_running hinit hrunning, searchPass_full (s := beginCommand s) hbits hlength hpairs henv,
      concludePass_eq]
    simp only [romOk_eq, beq_iff_eq, finishCommand, beginCommand, hrunning, List.nil_append]

end Sys2Proof.Proofs.RomSearch
end

section
/-! SUPPORT. Discovery on the reference bus (43_rom_search.md R197): how the devices follow the positions of a pass, which
code a pass ends on, and that passes in a row find every code in wire-bit order. -/

namespace Sys2Proof.Proofs.Discovery

open Sys2Proof.Machine Sys2Proof.Safety Sys2Proof.Proofs.RomSearch

/-! ### Wire-bit order (R197) -/

/-- Two codes have the same bits below position `i`. -/
abbrev AgreeBelow (i : Nat) (a b : RomCode) : Prop :=
  ∀ j, j < i → a.getLsbD j = b.getLsbD j

theorem eq_of_agreeBelow {a b : RomCode} (h : AgreeBelow 64 a b) : a = b :=
  BitVec.eq_of_getLsbD_eq fun i hi => h i hi

theorem agreeBelow_succ {i : Nat} {a b : RomCode} (h : AgreeBelow i a b) (hbit : a.getLsbD i = b.getLsbD i) :
    AgreeBelow (i + 1) a b := by
  intro j hj
  rcases Nat.lt_succ_iff_lt_or_eq.mp hj with hlt | rfl
  · exact h j hlt
  · exact hbit

/-- A written bit is agreed on by the codes that agreed so far and have it. -/
theorem agreeBelow_setBit {i : Nat} (hi : i < 64) (acc code : RomCode) (b : Bool) :
    AgreeBelow (i + 1) (setBit acc i b) code ↔ AgreeBelow i acc code ∧ code.getLsbD i = b := by
  have hsame : (setBit acc i b).getLsbD i = b := by rw [getLsbD_setBit _ _ _ _ hi hi, if_pos rfl]
  have hbelow {j : Nat} (hj : j < i) : (setBit acc i b).getLsbD j = acc.getLsbD j := by
    rw [getLsbD_setBit _ _ _ _ hi (by omega), if_neg (by omega)]
  constructor
  · intro h
    exact ⟨fun j hj => (hbelow hj).symm.trans (h j (by omega)), (h i (by omega)).symm.trans hsame⟩
  · rintro ⟨hagree, hbit⟩
    exact agreeBelow_succ (fun j hj => (hbelow hj).trans (hagree j hj)) (hsame.trans hbit.symm)

theorem wireBefore_ne {a b : RomCode} (h : WireBefore a b) : a ≠ b := by
  rintro rfl
  obtain ⟨i, -, -, hfalse, htrue⟩ := h
  simp [hfalse] at htrue

theorem wireBefore_trans {a b c : RomCode} (hab : WireBefore a b) (hbc : WireBefore b c) : WireBefore a c := by
  obtain ⟨i, hi, hagree, ha, hb⟩ := hab
  obtain ⟨m, hm, hagree', hb', hc⟩ := hbc
  rcases Nat.lt_trichotomy i m with hlt | rfl | hgt
  · exact ⟨i, hi, fun j hj => (hagree j hj).trans (hagree' j (by omega)), ha, (hagree' i hlt).symm.trans hb⟩
  · simp [hb] at hb'
  · exact ⟨m, hm, fun j hj => (hagree j (by omega)).trans (hagree' j hj), (hagree m hgt).trans hb', hc⟩

/-- Two codes are equal, or the lowest position where they differ puts one before the other. -/
theorem wireBefore_trichotomy (a b : RomCode) : WireBefore a b ∨ a = b ∨ WireBefore b a := by
  suffices h : ∀ n, n ≤ 64 → AgreeBelow n a b ∨ WireBefore a b ∨ WireBefore b a by
    rcases h 64 (Nat.le_refl _) with heq | hab | hba
    · exact .inr (.inl (eq_of_agreeBelow heq))
    · exact .inl hab
    · exact .inr (.inr hba)
  intro n
  induction n with
  | zero => exact fun _ => .inl fun j hj => absurd hj j.not_lt_zero
  | succ n ih =>
    intro hn
    rcases ih (by omega) with hagree | hordered
    · cases ha : a.getLsbD n <;> cases hb : b.getLsbD n
      · exact .inl (agreeBelow_succ hagree (ha.trans hb.symm))
      · exact .inr (.inl ⟨n, hn, hagree, ha, hb⟩)
      · exact .inr (.inr ⟨n, hn, fun j hj => (hagree j hj).symm, hb, ha⟩)
      · exact .inl (agreeBelow_succ hagree (ha.trans hb.symm))
    · exact .inr hordered

/-- A code between two that agree below `j` agrees with them there. -/
theorem agreeBelow_of_between {j : Nat} {a b c : RomCode} (hab : WireBefore a b) (hbc : WireBefore b c)
    (hac : AgreeBelow j a c) : AgreeBelow j a b := by
  obtain ⟨i, -, hagree, ha, hb⟩ := hab
  obtain ⟨m, -, hagree', hb', hc⟩ := hbc
  have hji : j ≤ i := by
    by_contra hij
    rcases Nat.lt_trichotomy i m with hlt | rfl | hgt
    · have hbit : true = false := hb.symm.trans ((hagree' i hlt).trans ((hac i (by omega)).symm.trans ha))
      cases hbit
    · simp [hb] at hb'
    · have hbit : true = false := hc.symm.trans ((hac m (by omega)).symm.trans ((hagree m hgt).trans hb'))
      cases hbit
  exact fun k hk => hagree k (by omega)

/-! ### What the devices offer at a position (R63, R186) -/

/-- Some code that agrees with `acc` below position `i` has bit `b` there. -/
def Offers (roms : List RomCode) (i : Nat) (acc : RomCode) (b : Bool) : Prop :=
  ∃ code ∈ roms, AgreeBelow i acc code ∧ code.getLsbD i = b

/-- Position `i` is a discrepancy on the path of `acc`: both bits are offered (R189). -/
def Discrepancy (roms : List RomCode) (i : Nat) (acc : RomCode) : Prop :=
  ∀ b, Offers roms i acc b

theorem offers_congr {roms : List RomCode} {i : Nat} {a c : RomCode} (h : AgreeBelow i a c) (b : Bool) :
    Offers roms i a b ↔ Offers roms i c b := by
  constructor
  · rintro ⟨code, hmem, hagree, hbit⟩
    exact ⟨code, hmem, fun j hj => (h j hj).symm.trans (hagree j hj), hbit⟩
  · rintro ⟨code, hmem, hagree, hbit⟩
    exact ⟨code, hmem, fun j hj => (h j hj).trans (hagree j hj), hbit⟩

theorem discrepancy_congr {roms : List RomCode} {i : Nat} {a c : RomCode} (h : AgreeBelow i a c) :
    Discrepancy roms i a ↔ Discrepancy roms i c :=
  forall_congr' (offers_congr h)

theorem offers_self {roms : List RomCode} {code : RomCode} (h : code ∈ roms) (i : Nat) :
    Offers roms i code (code.getLsbD i) :=
  ⟨code, h, fun _ _ => rfl, rfl⟩

/-- A code that still agrees offers its own bit. -/
theorem offers_some {roms : List RomCode} {i : Nat} {acc code : RomCode} (hmem : code ∈ roms)
    (hagree : AgreeBelow i acc code) : Offers roms i acc false ∨ Offers roms i acc true := by
  cases hbit : code.getLsbD i
  · exact .inl ⟨code, hmem, hagree, hbit⟩
  · exact .inr ⟨code, hmem, hagree, hbit⟩

/-- Where two codes on the bus part, there is a discrepancy on the path of each. -/
theorem discrepancy_of_ne {roms : List RomCode} {i : Nat} {a c : RomCode} (ha : a ∈ roms) (hc : c ∈ roms)
    (hagree : AgreeBelow i a c) (hne : a.getLsbD i ≠ c.getLsbD i) : Discrepancy roms i a := by
  intro b
  by_cases hb : a.getLsbD i = b
  · exact ⟨a, ha, fun _ _ => rfl, hb⟩
  · exact ⟨c, hc, hagree, (Bool.eq_not.mpr hne.symm).trans (Bool.eq_not.mpr (Ne.symm hb)).symm⟩

/-- The pass writes the zero at position `i` of `code` down as its candidate (R190). -/
def ZeroAt (roms : List RomCode) (rule : ZeroRule) (ld : Int) (code : RomCode) (i : Nat) : Prop :=
  Discrepancy roms i code ∧ recordsZero rule ld i (code.getLsbD i) = true

/-- `code` is one the bus holds, goes on from `acc` at position `i`, and takes the chosen bit at every discrepancy (R188,
R189). -/
structure Follows (roms : List RomCode) (ld : Int) (acc : RomCode) (i : Nat) (code : RomCode) : Prop where
  mem : code ∈ roms
  agree : AgreeBelow i acc code
  chosen : ∀ j, i ≤ j → j < 64 → Discrepancy roms j code → code.getLsbD j = chooseBit ld acc j

/-- A lone device has no discrepancy. -/
theorem not_discrepancy_singleton (rom : RomCode) (i : Nat) (code : RomCode) : ¬Discrepancy [rom] i code := by
  intro hdisc
  obtain ⟨a, ha, -, hzero⟩ := hdisc false
  obtain ⟨c, hc, -, hone⟩ := hdisc true
  obtain rfl := List.mem_singleton.mp ha
  obtain rfl := List.mem_singleton.mp hc
  simp [hzero] at hone

/-! ### One position: the two bits read, and the direction (R186 to R191) -/

section position

variable {roms : List RomCode} {i : Nat} {acc : RomCode} {b1 b2 : Bool}
  (h1 : b1 = true ↔ ¬Offers roms i acc false) (h2 : b2 = true ↔ ¬Offers roms i acc true)
  (hsome : Offers roms i acc false ∨ Offers roms i acc true)
include h1 h2 hsome

/-- Both bits read 0 exactly at a discrepancy. -/
theorem bits_equal_iff : b1 = b2 ↔ Discrepancy roms i acc := by
  rw [Bool.eq_iff_iff, h1, h2, not_iff_not, Discrepancy, Bool.forall_bool]
  exact ⟨fun heq => hsome.elim (fun hzero => ⟨hzero, heq.mp hzero⟩) fun hone => ⟨heq.mpr hone, hone⟩,
    fun ⟨hzero, hone⟩ => iff_of_true hzero hone⟩

theorem not_both_ones : (b1 && b2) = false := by
  rw [Bool.eq_false_iff, ne_eq, Bool.and_eq_true, h1, h2, ← not_or, not_not]
  exact hsome

/-- The direction is a bit that is offered. -/
theorem offers_directionBit (ld : Int) : Offers roms i acc (directionBit ld acc i b1 b2) := by
  unfold directionBit
  split
  case isTrue heq => exact (bits_equal_iff h1 h2 hsome).mp heq _
  case isFalse hne =>
    cases b1
    · exact not_not.mp (mt h1.mpr Bool.false_ne_true)
    · exact not_not.mp (mt h2.mpr (Ne.symm hne))

end position

/-- A code followed from position `i + 1` on, after the direction is written, is followed from position `i` on. -/
theorem Follows.of_succ {roms : List RomCode} {ld : Int} {acc code : RomCode} {i : Nat} {dir : Bool} (hi : i < 64)
    (h : Follows roms ld (setBit acc i dir) (i + 1) code)
    (hdir : Discrepancy roms i acc → dir = chooseBit ld acc i) : Follows roms ld acc i code := by
  obtain ⟨hagree, hbit⟩ := (agreeBelow_setBit hi acc code dir).mp h.agree
  refine ⟨h.mem, hagree, fun j hij hj hdisc => ?_⟩
  rcases Nat.eq_or_lt_of_le hij with rfl | hlt
  · exact hbit.trans (hdir ((discrepancy_congr hagree).mpr hdisc))
  · have hkept : chooseBit ld (setBit acc i dir) j = chooseBit ld acc j := by
      simp only [chooseBit, getLsbD_setBit acc i j dir hi hj, if_neg hlt.ne']
    exact (h.chosen j hlt hj hdisc).trans hkept

/-! ### The devices during a pass (R62, R63) -/

/-- A device as position `i` begins: still in the search if its code agrees with the bits written so far, and otherwise
deselected. -/
def atPosition (i : Nat) (acc : RomCode) (d : Device) : Device :=
  { d with
    phase := if AgreeBelow i acc d.rom then (if i = 64 then .idle else .search i .trueBit) else .deselected }

section device

variable {i : Nat} (hi : i < 64) (acc : RomCode) (d : Device)

include hi in
theorem atPosition_of_agree (h : AgreeBelow i acc d.rom) : atPosition i acc d = { d with phase := .search i .trueBit } := by
  simp only [atPosition, if_pos h, if_neg hi.ne]

theorem atPosition_of_not_agree (h : ¬AgreeBelow i acc d.rom) : atPosition i acc d = { d with phase := .deselected } := by
  simp only [atPosition, if_neg h]

/-- A reset pulse and the Search command put every device at position 0. -/
theorem atPosition_zero (p : Params) :
    (byteBits 0xF0#8).foldl (fun e b => deviceSlot p (.write b) e) (deviceSlot p .reset d) = atPosition 0 acc d := by
  rw [atPosition_of_agree (by omega) acc d fun j hj => absurd hj j.not_lt_zero]
  simp [byteBits, deviceSlot, deviceTakesWrite, setBit, romCommandPhase, wireByte]

include hi

/-- In the first read slot of a position the devices with bit 0 pull (R63). -/
theorem devicePullsLow_atPosition :
    devicePullsLow (atPosition i acc d) = true ↔ AgreeBelow i acc d.rom ∧ d.rom.getLsbD i = false := by
  by_cases h : AgreeBelow i acc d.rom
  · rw [atPosition_of_agree hi acc d h, and_iff_right h]
    simp [devicePullsLow]
  · rw [atPosition_of_not_agree acc d h]
    exact iff_of_false Bool.false_ne_true fun hand => h hand.1

/-- In the second one the devices with bit 1 pull. -/
theorem devicePullsLow_read_atPosition (p : Params) :
    devicePullsLow (deviceSlot p .read (atPosition i acc d)) = true ↔
      AgreeBelow i acc d.rom ∧ d.rom.getLsbD i = true := by
  by_cases h : AgreeBelow i acc d.rom
  · rw [atPosition_of_agree hi acc d h, and_iff_right h]
    simp [devicePullsLow, deviceSlot, deviceTakesRead]
  · rw [atPosition_of_not_agree acc d h]
    exact iff_of_false Bool.false_ne_true fun hand => h hand.1

/-- The direction bit takes every device to the next position, and deselects those that disagree. -/
theorem atPosition_succ (p : Params) (dir : Bool) :
    deviceSlot p (.write dir) (deviceSlot p .read (deviceSlot p .read (atPosition i acc d))) =
      atPosition (i + 1) (setBit acc i dir) d := by
  by_cases h : AgreeBelow i acc d.rom
  · by_cases hbit : d.rom.getLsbD i = dir
    · have hnext := (agreeBelow_setBit hi acc d.rom dir).mpr ⟨h, hbit⟩
      rw [atPosition_of_agree hi acc d h, atPosition, if_pos hnext]
      simp [deviceSlot, deviceTakesRead, deviceTakesWrite, hbit]
    · have hnext := fun hn => hbit ((agreeBelow_setBit hi acc d.rom dir).mp hn).2
      rw [atPosition_of_agree hi acc d h, atPosition_of_not_agree _ d hnext]
      simp [deviceSlot, deviceTakesRead, deviceTakesWrite, Ne.symm hbit]
  · have hnext := fun hn => h ((agreeBelow_setBit hi acc d.rom dir).mp hn).1
    rw [atPosition_of_not_agree acc d h, atPosition_of_not_agree _ d hnext]
    rfl

end device

/-- A read slot on the reference bus reads 1 where no device pulls. -/
theorem lineLevel_reference_map (devices : List Device) (f : Device → Device) (n : Nat) :
    lineLevel true (.reference (devices.map f)) .released .read n = true ↔
      ¬∃ d ∈ devices, devicePullsLow (f d) = true := by
  simp [lineLevel, wiredAnd]

theorem offers_map_iff (devices : List Device) (i : Nat) (acc : RomCode) (b : Bool) :
    Offers (devices.map (·.rom)) i acc b ↔ ∃ d ∈ devices, AgreeBelow i acc d.rom ∧ d.rom.getLsbD i = b := by
  simp [Offers]

/-! ### The positions of a pass on the reference bus -/

/-- The two bits read at a position say what the devices offer there; then the devices see the direction bit. -/
theorem position_reference {p : Params} {devices : List Device} {i : Nat} {s : State} (hi : i < 64)
    (htime : keepsBudget p s.timing = true) (henv : s.env = .reference (devices.map (atPosition i s.romAcc))) :
    ((slotRead p s).1 = true ↔ ¬Offers (devices.map (·.rom)) i s.romAcc false) ∧
      ((slotRead p (slotRead p s).2).1 = true ↔ ¬Offers (devices.map (·.rom)) i s.romAcc true) ∧
      ∀ dir, (writeDirection p i dir (slotRead p (slotRead p s).2).2).env =
        .reference (devices.map (atPosition (i + 1) (setBit s.romAcc i dir))) := by
  refine ⟨?_, ?_, fun dir => ?_⟩
  · rw [slotRead_fst, henv, htime, lineLevel_reference_map, offers_map_iff]
    simp only [devicePullsLow_atPosition hi]
  · rw [slotRead_fst, slotRead_snd, henv]
    dsimp only [envAfterSample, envAfterSlot]
    rw [htime, List.map_map, lineLevel_reference_map, offers_map_iff]
    simp only [Function.comp_apply, devicePullsLow_read_atPosition hi]
  · simp only [writeDirection, writeBit_eq, slotRead_snd, henv, envAfterSample, envAfterSlot, List.map_map,
      Env.reference.injEq]
    exact List.map_congr_left fun d _ => atPosition_succ hi s.romAcc d p dir

/-- From position `i` on, while some code agrees, the pass ends on a code it follows, and its candidate is the highest
recorded zero of that code. -/
theorem searchPositions_reference {p : Params} {devices : List Device} (ld : Int) {n i : Nat} {lz : Int} {s : State}
    (hn : i + n = 64) (htime : keepsBudget p s.timing = true)
    (henv : s.env = .reference (devices.map (atPosition i s.romAcc)))
    (hsome : ∃ code ∈ devices.map (·.rom), AgreeBelow i s.romAcc code) :
    ∃ code lz' s', searchPositions p ld n i lz s = (some lz', s') ∧ s'.romAcc = code ∧
      Follows (devices.map (·.rom)) ld s.romAcc i code ∧
      (HighestOrNone (ZeroAt (devices.map (·.rom)) p.zeroRule ld code) i lz →
        HighestOrNone (ZeroAt (devices.map (·.rom)) p.zeroRule ld code) 64 lz') := by
  induction n generalizing i lz s with
  | zero =>
    obtain rfl : i = 64 := hn
    obtain ⟨code, hmem, hagree⟩ := hsome
    exact ⟨code, lz, s, rfl, eq_of_agreeBelow hagree, ⟨hmem, hagree, fun j hj hj' => by omega⟩, id⟩
  | succ n ih =>
    have hi : i < 64 := by omega
    obtain ⟨first, hfirst, hfirstAgree⟩ := hsome
    have hsome := offers_some hfirst hfirstAgree
    obtain ⟨h1, h2, hnext⟩ := position_reference hi htime henv
    have hacc : (slotRead p (slotRead p s).2).2.romAcc = s.romAcc := by simp only [slotRead_snd]
    have htime' : (slotRead p (slotRead p s).2).2.timing = s.timing := by simp only [slotRead_snd]
    simp only [searchPositions]
    generalize (slotRead p (slotRead p s).2).1 = b2 at h2 ⊢
    generalize (slotRead p s).1 = b1 at h1 ⊢
    generalize (slotRead p (slotRead p s).2).2 = u at hnext hacc htime' ⊢
    simp only [not_both_ones h1 h2 hsome, Bool.false_eq_true, if_false, hacc]
    generalize hdir : directionBit ld s.romAcc i b1 b2 = dir
    have hacc' : (writeDirection p i dir u).romAcc = setBit s.romAcc i dir := congrArg (setBit · i dir) hacc
    have htime'' : (writeDirection p i dir u).timing = s.timing := by rw [writeDirection, writeBit_eq]; exact htime'
    have hoffered : Offers (devices.map (·.rom)) i s.romAcc dir := hdir ▸ offers_directionBit h1 h2 hsome ld
    obtain ⟨next, hnextMem, hnextAgree⟩ := hoffered
    obtain ⟨code, lz', s', hpos, hcode, hfollows, hhighest⟩ :=
      ih (i := i + 1) (lz := nextLastZero p.zeroRule ld s.romAcc i b1 b2 lz) (s := writeDirection p i dir u)
        (by omega) (htime''.symm ▸ htime) (by rw [hacc', hnext])
        ⟨next, hnextMem, hacc'.symm ▸ (agreeBelow_setBit hi _ _ _).mpr hnextAgree⟩
    rw [hacc'] at hfollows
    obtain ⟨hagree, hbit⟩ := (agreeBelow_setBit hi s.romAcc code dir).mp hfollows.agree
    have hequal := bits_equal_iff h1 h2 hsome
    refine ⟨code, lz', s', hpos, hcode, hfollows.of_succ hi fun hdisc => ?_, fun hlz => hhighest (hlz.nextLastZero ?_)⟩
    · rw [← hdir, directionBit, if_pos (hequal.mpr hdisc)]
    · rw [hdir, ZeroAt, hbit, hequal, discrepancy_congr hagree]

/-! ### A pass on the reference bus, and the search step that makes it -/

/-- The pass's reset slot and its Search command put every device at position 0 (R184, R185). -/
theorem passStart_reference (p : Params) (acc : RomCode) {s : State} {devices : List Device}
    (henv : s.env = .reference devices) :
    (sendWire p .searchRom (slotReset p s).2).env = .reference (devices.map (atPosition 0 acc)) := by
  have hbits (bs : List Bool) (ds : List Device) : envAfterBits p bs (.reference ds) =
      .reference (ds.map fun d => bs.foldl (fun e b => deviceSlot p (.write b) e) d) := by
    induction bs generalizing ds with
    | nil => simp
    | cons b bs ih => rw [envAfterBits_cons, envAfterSlot, ih, List.map_map]; rfl
  rw [sendWire, writeByte_eq, slotReset_snd, henv]
  dsimp only [envAfterSample, envAfterSlot]
  rw [hbits, List.map_map]
  exact congrArg Env.reference (List.map_congr_left fun d _ => atPosition_zero acc d p)

/-- An initialised core on time, with these ROM codes on its reference bus. -/
structure OnBus (p : Params) (roms : List RomCode) (s : State) : Prop where
  init : s.init = true
  config : s.config = p
  onTime : keepsBudget p s.timing = true
  roms : envRoms s.env = roms

/-- Every instruction but INIT leaves it so. -/
theorem OnBus.after_exec {p : Params} {roms : List RomCode} {i : Instr} {s t : State} (h : OnBus p roms s) (hi : i ≠ .init)
    (hexec : exec i s = .next t) : OnBus p roms t := by
  have hkeeps := CoreState.exec_keepsConfig hexec
  refine ⟨hkeeps.init.mpr (.inl h.init), hkeeps.config.trans h.config, ?_, hkeeps.roms.trans h.roms⟩
  rw [hkeeps.timing, if_neg hi]
  exact h.onTime

theorem OnBus.devices {p : Params} {roms : List RomCode} {s : State} (h : OnBus p roms s) (hroms : roms ≠ []) :
    ∃ devices, s.env = .reference devices ∧ devices.map (·.rom) = roms := by
  cases henv : s.env with
  | draws ds => exact absurd (h.roms.symm.trans (by rw [henv]; rfl)) hroms
  | reference devices => exact ⟨devices, rfl, by rw [← h.roms, henv]; rfl⟩

section passes

variable {p : Params} {roms : List RomCode} {s : State}

/-- The pass finds presence and ends on a code that it follows from the first position on (R184 to R193). -/
theorem searchPass_reference (hbits : p.romBits = 64) (hbus : OnBus p roms s) (hroms : roms ≠ []) :
    ∃ code lz s', searchPass p s = concludePass p lz s' ∧ s'.romAcc = code ∧ s'.searchState = s.searchState ∧
      Follows roms s.lastDiscrepancy s.romAcc 0 code ∧
      HighestOrNone (ZeroAt roms p.zeroRule s.lastDiscrepancy code) 64 lz := by
  obtain ⟨devices, henv, rfl⟩ := hbus.devices hroms
  have hpresent : (slotReset p s).1 = true := by
    rw [slotReset_fst, henv, hbus.onTime]
    simpa [lineLevel, wiredAnd] using hroms
  have hacc : (sendWire p .searchRom (slotReset p s).2).romAcc = s.romAcc := by rw [sendWire, writeByte_eq, slotReset_snd]
  have htime : (sendWire p .searchRom (slotReset p s).2).timing = s.timing := (passStart_keepsHistory p s).timing
  obtain ⟨first, hfirst⟩ := List.exists_mem_of_ne_nil _ hroms
  obtain ⟨code, lz, s', hpos, hcode, hfollows, hhighest⟩ :=
    searchPositions_reference (n := 64) (i := 0) (lz := -1) s.lastDiscrepancy rfl (htime.symm ▸ hbus.onTime)
      (passStart_reference p _ henv) ⟨first, hfirst, fun j hj => absurd hj j.not_lt_zero⟩
  rw [← hbits] at hpos
  refine ⟨code, lz, s', by simp [searchPass, hpresent, hpos], hcode, (CoreState.passPositions_keep hpos).1,
    hacc ▸ hfollows, hhighest (highestOrNone_zero _)⟩

/-- What one SEARCH_STEP of a running search does where every code passes its check: it returns a code that its pass
follows, and the search goes on unless no zero was recorded (R193, R195). -/
structure Finds (p : Params) (roms : List RomCode) (s t : State) (code : RomCode) : Prop where
  follows : Follows roms s.lastDiscrepancy s.romAcc 0 code
  highest : HighestOrNone (ZeroAt roms p.zeroRule s.lastDiscrepancy code) 64 t.lastDiscrepancy
  romAcc : t.romAcc = code
  searchState : t.searchState = if t.lastDiscrepancy = -1 then .done else .running

theorem exec_searchStep_reference (hbits : p.romBits = 64) (hbus : OnBus p roms s) (hroms : roms ≠ [])
    (hok : ∀ code ∈ roms, romOk p code = true) (hrunning : s.searchState = .running) :
    ∃ code t tr, exec .searchStep s = .next t ∧
      t.observations = s.observations ++ [⟨.searchStep, .outcome (.found code), tr⟩] ∧ Finds p roms s t code := by
  have hbegun : OnBus p roms (beginCommand s) := ⟨hbus.init, hbus.config, hbus.onTime, hbus.roms⟩
  obtain ⟨code, lz, s', hpass, rfl, hstate, hfollows, hhighest⟩ := searchPass_reference hbits hbegun hroms
  have hfound : concludePass p lz s' = (.found s'.romAcc, { closePass lz s' with err := .none }) := by
    rw [concludePass, if_pos (hok _ hfollows.mem)]
  have hobservations : s'.observations = s.observations := by
    have hkept := (searchPass_keepsHistory p (beginCommand s)).observations
    rwa [hpass, hfound] at hkept
  have hexec : exec .searchStep s = .next
      (finishCommand .searchStep (.outcome (.found s'.romAcc)) { closePass lz s' with err := .none }) := by
    rw [exec_searchStep_running hbus.init hrunning, hbus.config, hpass, hfound]
  refine ⟨_, _, s'.trace, hexec, congrArg (· ++ [_]) hobservations, hfollows, hhighest, rfl, ?_⟩
  exact congrArg (if lz = -1 then .done else ·) (hstate.trans hrunning)

/-! ### Search steps in a row -/

theorem searchSteps_succ {t : State} {o : Observation} (n : Nat) (hexec : exec .searchStep s = .next t)
    (ho : t.observations = s.observations ++ [o]) :
    searchSteps (n + 1) s = (o.result :: (searchSteps n t).1, (searchSteps n t).2) := by
  simp [searchSteps, hexec, ho]

/-- From Done on, every step returns Done and leaves the cursor (R182). -/
theorem searchSteps_done (n : Nat) (hinit : s.init = true) (hdone : s.searchState = .done) :
    (searchSteps n s).1 = List.replicate n (.outcome .done) ∧ (searchSteps n s).2.searchState = .done ∧
      (searchSteps n s).2.lastDiscrepancy = s.lastDiscrepancy := by
  induction n generalizing s with
  | zero => exact ⟨rfl, hdone, rfl⟩
  | succ n ih =>
    have hexec := (terminalSearchStepReturnsTag s hinit).1 hdone
    obtain ⟨hresults, hstate, hld⟩ := ih (s := { s with trace := [], observations := _ }) hinit hdone
    rw [searchSteps_succ n hexec rfl]
    exact ⟨congrArg (_ :: ·) hresults, hstate, hld⟩

/-! ### Where a pass goes under ANY_ZERO (R189, R190) -/

/-- Some code comes after `code` with its first difference at position `i`: a 1-branch not yet explored. -/
def Branch (roms : List RomCode) (code : RomCode) (i : Nat) : Prop :=
  code.getLsbD i = false ∧ Offers roms i code true

/-- Under ANY_ZERO the recorded zeros of a code are its unexplored branches. -/
theorem zeroAt_anyZero {code : RomCode} (hmem : code ∈ roms) (ld : Int) :
    ZeroAt roms .anyZero ld code = Branch roms code := by
  funext i
  have hself := offers_self hmem i
  simp only [ZeroAt, Branch, Discrepancy, Bool.forall_bool, recordsZero_iff, eq_iff_iff]
  constructor
  · rintro ⟨⟨-, hone⟩, hbit, -⟩
    exact ⟨hbit, hone⟩
  · rintro ⟨hbit, hone⟩
    exact ⟨⟨hbit ▸ hself, hone⟩, hbit, nofun⟩

/-- The branches of a code lead to the codes after it. -/
theorem branch_of_wireBefore {code x : RomCode} (hx : x ∈ roms) (h : WireBefore code x) :
    ∃ i, i < 64 ∧ Branch roms code i := by
  obtain ⟨i, hi, hagree, hzero, hone⟩ := h
  exact ⟨i, hi, hzero, x, hx, hagree, hone⟩

theorem wireBefore_of_branch {code : RomCode} {i : Nat} (hi : i < 64) (h : Branch roms code i) :
    ∃ x ∈ roms, WireBefore code x := by
  obtain ⟨hzero, x, hx, hagree, hone⟩ := h
  exact ⟨x, hx, i, hi, hagree, hzero, hone⟩

/-- With no last discrepancy a pass ends on the first code of all: at every discrepancy it takes the 0. -/
theorem Follows.first {acc code x : RomCode} (h : Follows roms (-1) acc 0 code) (hx : x ∈ roms) :
    ¬WireBefore x code := by
  rintro ⟨i, hi, hagree, hzero, hone⟩
  have hdisc : Discrepancy roms i code :=
    discrepancy_of_ne h.mem hx (fun j hj => (hagree j hj).symm) (by simp [hzero, hone])
  have hchosen := h.chosen i (Nat.zero_le i) hi hdisc
  have hbit : chooseBit (-1) acc i = false := by
    rw [chooseBit, if_neg (by omega)]
    exact decide_eq_false (by omega)
  rw [hone, hbit] at hchosen
  cases hchosen

section next

variable {c code : RomCode} {j : Nat} (hj : j < 64) (hc : c ∈ roms) (h : Follows roms j c 0 code)
include hj hc h

/-- Below the last discrepancy a pass retraces the code found before. -/
theorem Follows.retraces : AgreeBelow j c code := by
  suffices hsuff : ∀ i, i ≤ j → AgreeBelow i c code from hsuff j (Nat.le_refl j)
  intro i
  induction i with
  | zero => exact fun _ k hk => absurd hk k.not_lt_zero
  | succ i ih =>
    intro hi
    refine agreeBelow_succ (ih (by omega)) ?_
    by_contra hne
    have hdisc : Discrepancy roms i code :=
      discrepancy_of_ne h.mem hc (fun k hk => (ih (by omega) k hk).symm) (Ne.symm hne)
    have hchosen := h.chosen i (Nat.zero_le i) (by omega) hdisc
    rw [chooseBit, if_pos (by omega)] at hchosen
    exact hne hchosen.symm

variable (hbranch : Branch roms c j)
include hbranch

/-- At the last discrepancy it takes the 1. -/
theorem Follows.takes_one : code.getLsbD j = true := by
  obtain ⟨hzero, hone⟩ := hbranch
  have hdisc : Discrepancy roms j c := Bool.forall_bool.mpr ⟨hzero ▸ offers_self hc j, hone⟩
  have hchosen := h.chosen j (Nat.zero_le j) hj ((discrepancy_congr (h.retraces hj hc)).mp hdisc)
  rwa [chooseBit, if_neg (by omega), decide_eq_true rfl] at hchosen

theorem Follows.advances : WireBefore c code :=
  ⟨j, hj, h.retraces hj hc, hbranch.1, h.takes_one hj hc hbranch⟩

/-- Above it, it takes the 0, so no code is passed over. -/
theorem Follows.next (habove : ∀ i, j < i → i < 64 → ¬Branch roms c i) {x : RomCode} (hx : x ∈ roms)
    (hcx : WireBefore c x) : ¬WireBefore x code := by
  intro hxcode
  have hretraces := h.retraces hj hc
  have hbelow : AgreeBelow j c x := agreeBelow_of_between hcx hxcode hretraces
  have hxj : x.getLsbD j = true := by
    obtain ⟨i, hi, hagree, hzero, hone⟩ := hcx
    rcases Nat.lt_trichotomy i j with hlt | rfl | hgt
    · simp [hbelow i hlt, hone] at hzero
    · exact hone
    · exact absurd ⟨hzero, x, hx, hagree, hone⟩ (habove i hgt hi)
  obtain ⟨m, hm, hagree, hzero, hone⟩ := hxcode
  rcases Nat.lt_trichotomy m j with hlt | rfl | hgt
  · simp [← hbelow m hlt, hretraces m hlt, hone] at hzero
  · simp [hxj] at hzero
  · have hdisc : Discrepancy roms m code :=
      discrepancy_of_ne h.mem hx (fun k hk => (hagree k hk).symm) (by simp [hzero, hone])
    have hchosen := h.chosen m (Nat.zero_le m) hm hdisc
    rw [chooseBit, if_neg (by omega), decide_eq_false (by omega), hone] at hchosen
    cases hchosen

end next

/-! ### Every code in wire-bit order (R197) -/

/-- Where a discovery stands between two steps, with the codes `rest` still to come: not begun, on its way after the code
in the accumulator with an unexplored branch left, or done. -/
inductive Stands (roms rest : List RomCode) (s : State) : Prop
  | fresh (running : s.searchState = .running) (ld : s.lastDiscrepancy = -1) (all : rest = roms)
  | between (j : Nat) (running : s.searchState = .running) (found : s.romAcc ∈ roms) (ld : s.lastDiscrepancy = j)
      (high : j < 64) (branch : Branch roms s.romAcc j) (above : ∀ i, j < i → i < 64 → ¬Branch roms s.romAcc i)
      (after : ∀ x, x ∈ rest ↔ x ∈ roms ∧ WireBefore s.romAcc x)
  | finished (done : s.searchState = .done) (none : rest = [])

variable {rest : List RomCode}

theorem Stands.done_of_nil (h : Stands roms [] s) (hroms : roms ≠ []) : s.searchState = .done := by
  cases h with
  | fresh _ _ all => exact absurd all.symm hroms
  | between j _ _ _ high branch _ after =>
    obtain ⟨x, hx, hbefore⟩ := wireBefore_of_branch high branch
    exact absurd ((after x).mpr ⟨hx, hbefore⟩) List.not_mem_nil
  | finished done _ => exact done

theorem Stands.running_of_ne_nil (h : Stands roms rest s) (hrest : rest ≠ []) : s.searchState = .running := by
  cases h with
  | fresh running | between _ running => exact running
  | finished _ none => exact absurd none hrest

/-- The pass ends on the first of the codes still to come. -/
theorem Stands.takes_first {code : RomCode} (h : Stands roms rest s) (hrest : rest ≠ [])
    (hcode : Follows roms s.lastDiscrepancy s.romAcc 0 code) (x : RomCode) :
    x ∈ rest ↔ x ∈ roms ∧ (x = code ∨ WireBefore code x) := by
  cases h with
  | fresh _ ld all =>
    subst all
    rw [ld] at hcode
    refine ⟨fun hx => ⟨hx, ?_⟩, And.left⟩
    rcases wireBefore_trichotomy x code with hbefore | heq | hafter
    · exact absurd hbefore (hcode.first hx)
    · exact .inl heq
    · exact .inr hafter
  | between j _ found ld high branch above after =>
    rw [ld] at hcode
    have hadvances := hcode.advances high found branch
    rw [after]
    refine and_congr_right fun hx => ⟨fun hbefore => ?_, ?_⟩
    · rcases wireBefore_trichotomy x code with hbefore' | heq | hafter
      · exact absurd hbefore' (hcode.next high found branch above hx hbefore)
      · exact .inl heq
      · exact .inr hafter
    · rintro (rfl | hafter)
      · exact hadvances
      · exact wireBefore_trans hadvances hafter
  | finished _ none => exact absurd none hrest

/-- And leaves the discovery with the others: done if no branch is left, and otherwise on its way. -/
theorem Finds.stands {t : State} {code : RomCode} (hany : p.zeroRule = .anyZero) (hfinds : Finds p roms s t code)
    (hothers : ∀ x, x ∈ rest ↔ x ∈ roms ∧ WireBefore code x) : Stands roms rest t := by
  have hhighest := hfinds.highest
  have hstate := hfinds.searchState
  rw [hany, zeroAt_anyZero hfinds.follows.mem] at hhighest
  rcases hhighest with ⟨hld, hnone⟩ | ⟨j, hld, hj, hbranch, habove⟩
  · rw [if_pos hld] at hstate
    refine .finished hstate (List.eq_nil_iff_forall_not_mem.mpr fun x hx => ?_)
    obtain ⟨hmem, hbefore⟩ := (hothers x).mp hx
    obtain ⟨i, hi, hbranch⟩ := branch_of_wireBefore hmem hbefore
    exact hnone i hi hbranch
  · rw [if_neg (by omega)] at hstate
    rw [← hfinds.romAcc] at hbranch habove hothers
    exact .between j hstate (hfinds.romAcc ▸ hfinds.follows.mem) hld hj hbranch habove hothers

/-- From where a discovery stands, its steps return the codes still to come in wire-bit order, and then Done. -/
theorem searchSteps_enumerate (hbits : p.romBits = 64) (hany : p.zeroRule = .anyZero) (hroms : roms ≠ [])
    (hok : ∀ code ∈ roms, romOk p code = true) {n : Nat} (hlength : rest.length = n) (hnodup : rest.Nodup)
    (hbus : OnBus p roms s) (hstands : Stands roms rest s) :
    ∃ codes : List RomCode, codes.Perm rest ∧ codes.Pairwise WireBefore ∧
      ∀ k : Nat, (searchSteps (n + 1 + k) s).1 =
        codes.map (fun c => .outcome (.found c)) ++ List.replicate (k + 1) (.outcome .done) := by
  induction n generalizing s rest with
  | zero =>
    obtain rfl := List.length_eq_zero_iff.mp hlength
    refine ⟨[], .nil, .nil, fun k => ?_⟩
    rw [(searchSteps_done _ hbus.init (hstands.done_of_nil hroms)).1, Nat.zero_add, Nat.add_comm 1 k]
    rfl
  | succ n ih =>
    have hrest : rest ≠ [] := List.ne_nil_of_length_eq_add_one hlength
    obtain ⟨code, t, tr, hexec, hobservations, hfinds⟩ :=
      exec_searchStep_reference hbits hbus hroms hok (hstands.running_of_ne_nil hrest)
    have hfirst := hstands.takes_first hrest hfinds.follows
    have hcode : code ∈ rest := (hfirst code).mpr ⟨hfinds.follows.mem, .inl rfl⟩
    have hothers (x : RomCode) : x ∈ rest.erase code ↔ x ∈ roms ∧ WireBefore code x := by
      rw [hnodup.mem_erase_iff, hfirst]
      constructor
      · rintro ⟨hne, hmem, heq | hafter⟩
        · exact absurd heq hne
        · exact ⟨hmem, hafter⟩
      · exact fun ⟨hmem, hafter⟩ => ⟨(wireBefore_ne hafter).symm, hmem, .inr hafter⟩
    obtain ⟨codes, hperm, hordered, hsteps⟩ :=
      ih (rest := rest.erase code) (by rw [List.length_erase_of_mem hcode, hlength]; rfl) (hnodup.erase code)
        (hbus.after_exec (i := .searchStep) nofun hexec) (hfinds.stands hany hothers)
    refine ⟨code :: codes, (hperm.cons code).trans (List.perm_cons_erase hcode).symm,
      .cons (fun x hx => ((hothers x).mp (hperm.mem_iff.mp hx)).2) hordered, fun k => ?_⟩
    rw [Nat.add_right_comm (n + 1) 1 k, searchSteps_succ _ hexec hobservations, hsteps k]
    rfl

end passes

/-! ### The statements -/

/-- Settles O38: the pass can only follow the one code, and with no discrepancy there is no zero to record. -/
theorem oneDeviceIsDiscovered : Obligations.OneDeviceIsDiscovered := by
  unfold Obligations.OneDeviceIsDiscovered
  intro s d hinit hrunning _ henv ⟨hbits, _⟩ htime hok
  have hbus : OnBus s.config [d.rom] s := ⟨hinit, rfl, htime, by rw [henv]; rfl⟩
  obtain ⟨code, t, tr, hexec, hobservations, hfinds⟩ :=
    exec_searchStep_reference hbits hbus (List.cons_ne_nil _ _) (by simpa using hok) hrunning
  obtain rfl := List.mem_singleton.mp hfinds.follows.mem
  have hld : t.lastDiscrepancy = -1 := by
    rcases hfinds.highest with ⟨hnone, -⟩ | ⟨j, -, -, ⟨hdisc, -⟩, -⟩
    · exact hnone
    · exact absurd hdisc (not_discrepancy_singleton d.rom j d.rom)
  have hdone : t.searchState = .done := by rw [hfinds.searchState, if_pos hld]
  obtain ⟨hresults, hstate, hld'⟩ := searchSteps_done 1 (hbus.after_exec (i := .searchStep) nofun hexec).init hdone
  rw [searchSteps_succ 1 hexec hobservations]
  exact ⟨congrArg (_ :: ·) hresults, hstate, hld'.trans hld⟩

/-- Settles O39: START_SEARCH leaves a discovery with every code still to come, and `searchSteps_enumerate`. -/
theorem searchEnumeratesEveryDevice : Obligations.SearchEnumeratesEveryDevice := by
  unfold Obligations.SearchEnumeratesEveryDevice
  intro s t devices hinit henv hne hnodup hok ⟨hbits, _⟩ hany htime hstart
  have hroms : devices.map (·.rom) ≠ [] := fun h => hne (List.map_eq_nil_iff.mp h)
  have hbus : OnBus s.config (devices.map (·.rom)) s := ⟨hinit, rfl, htime, by rw [henv]; rfl⟩
  have hstands : Stands (devices.map (·.rom)) (devices.map (·.rom)) t := by
    obtain rfl := Host.Outcome.next.inj ((exec_startSearch_eq hinit).symm.trans hstart)
    exact .fresh rfl rfl rfl
  exact searchSteps_enumerate hbits hany hroms (by simpa using hok) (List.length_map _) hnodup
    (hbus.after_exec (i := .startSearch) nofun hstart) hstands

end Sys2Proof.Proofs.Discovery
end

section
/-! SUPPORT. The statements on the device session (44_device_session.md): what each session command sends and returns,
how the reference devices take it, and the modelled time of every command (R249, 70_reset_and_hazards.md R360). -/

namespace Sys2Proof.Proofs.DeviceSession

open Sys2Proof.Machine Sys2Proof.Safety

/-! ### The presence bit and the fixed draws (R59, R220) -/

/-- The presence bit is the negated sample of the transaction's reset slot (R116). -/
theorem presenceOf_config (s : State) : presenceOf s.config s = !Slots.slotSample .reset s := rfl

/-- The match transaction takes one draw, in its presence window. -/
theorem envAfterMatch_draws (p : Params) (rom : RomCode) (b : Bool) (ds : List Bool) :
    envAfterMatch p rom (.draws (b :: ds)) = .draws ds := by
  rw [envAfterMatch, envAfterSample, envAfterSlot, envAfterBits_draws, List.tail_cons]

/-! ### The commands without a check (R221, R225, R228) -/

/-- `matchRom_eq` between `beginCommand` and `finishCommand`. -/
theorem exec_matchRom_eq (rom : RomCode) {s : State} (h : s.init = true) :
    exec (.matchRom rom) s =
      .next { s with
        presence := !Slots.slotSample .reset s
        busDrive := .released
        trace := []
        env := envAfterMatch s.config rom s.env
        sampleCount := s.sampleCount + 1
        observations :=
          s.observations ++ [⟨.matchRom rom, .unit, matchTrace s.config rom (Slots.slotSample .reset s)⟩] } := by
  rw [exec, execMatchRom, command_next h]
  dsimp only
  rw [matchRom_eq, presenceOf_config (beginCommand s), Bool.not_not, beginCommand_trace, List.nil_append]
  simp only [finishCommand, beginCommand]
  rfl

/-- Settles O40: `exec_matchRom_eq`, and what the presence window samples on fixed draws. -/
theorem matchRomSendsAddress : Obligations.MatchRomSendsAddress := by
  unfold Obligations.MatchRomSendsAddress
  refine ⟨fun rom s hinit => ⟨_, _, exec_matchRom_eq rom hinit, fun b ds hdraws => ?_⟩,
    fun rom s hinit => CoreState.exec_before_init nofun hinit⟩
  exact ⟨(Slots.slotSample_of_draws .reset hdraws).1, by rw [hdraws, envAfterMatch_draws]⟩

/-- `matchRom_eq` and `writeByte_eq` between `beginCommand` and `finishCommand`. -/
theorem exec_requestConversion_eq (rom : RomCode) {s : State} (h : s.init = true) :
    exec (.requestConversion rom) s =
      .next { s with
        presence := !Slots.slotSample .reset s
        busDrive := .released
        trace := []
        env := envAfterBits s.config (byteBits 0x44#8) (envAfterMatch s.config rom s.env)
        sampleCount := s.sampleCount + 1
        observations :=
          s.observations ++
            [⟨.requestConversion rom, .unit,
              matchTrace s.config rom (Slots.slotSample .reset s) ++ writeByteTrace s.config 0x44#8⟩] } := by
  rw [exec, execRequestConversion, command_next h]
  dsimp only
  rw [sendWire, writeByte_eq, matchRom_eq, presenceOf_config (beginCommand s), Bool.not_not, beginCommand_trace,
    List.nil_append]
  simp only [finishCommand, beginCommand]
  rfl

/-- Settles O41: `exec_requestConversion_eq`; the byte after the match uses up no draw. -/
theorem requestConversionSendsConvertT : Obligations.RequestConversionSendsConvertT := by
  unfold Obligations.RequestConversionSendsConvertT
  refine ⟨fun rom s hinit => ⟨_, _, exec_requestConversion_eq rom hinit, fun b ds hdraws => ?_⟩,
    fun rom s hinit => CoreState.exec_before_init nofun hinit⟩
  exact ⟨(Slots.slotSample_of_draws .reset hdraws).1, by rw [hdraws, envAfterMatch_draws, envAfterBits_draws]⟩

/-- A poll makes one read slot and answers its sample; its operand is in the record alone (R228). -/
theorem exec_pollConversionDone_eq (rom : RomCode) {s : State} (h : s.init = true) :
    exec (.pollConversionDone rom) s =
      .next { s with
        busDrive := .released
        trace := []
        env := Slots.envAfterSampledSlot .read s
        sampleCount := s.sampleCount + 1
        observations :=
          s.observations ++
            [⟨.pollConversionDone rom, .bool (Slots.slotSample .read s),
              readBitTrace s.config (Slots.slotSample .read s)⟩] } := by
  rw [exec, execPollConversionDone, command_next h]
  dsimp only
  rw [slotRead_snd, beginCommand_trace, List.nil_append]
  simp only [finishCommand, beginCommand]
  rfl

/-- Settles O42: `exec_pollConversionDone_eq`, and what the sample is on fixed draws and on the empty bus. -/
theorem pollReadsOneBit : Obligations.PollReadsOneBit := by
  unfold Obligations.PollReadsOneBit
  exact ⟨fun s hinit => ⟨_, _, fun rom => exec_pollConversionDone_eq rom hinit,
      fun _ _ => Slots.slotSample_of_draws .read, Slots.slotSample_of_emptyBus .read⟩,
    fun rom s hinit => CoreState.exec_before_init nofun hinit⟩

/-! ### The frame that a read transaction receives (R230) -/

/-- The check of a scratchpad compares its ninth byte with the CRC of the first eight (R165). -/
theorem padOk_iff (p : Params) (f : Scratchpad) : padOk p f = true ↔ crc8 p (padLeading f) = f.crc := by
  rw [padOk, crcOk, beq_iff_eq]

section fetch

variable {p : Params} {s : State} (hwidth : p.scratchpadBytes = 9)
include hwidth

theorem readBytesTrace_fetched (rom : RomCode) (v : Bool) :
    readBytesTrace p rom v (fetchedBytes p rom s) = readPadTrace p rom v (padOf p rom s) := by
  rw [readPadTrace, padBytes_padOf hwidth]

theorem sampleCount_fetched : s.sampleCount + (1 + 8 * p.scratchpadBytes) = s.sampleCount + 73 := by
  rw [hwidth]

/-- Draws that spell the presence sample and nine bytes are received as that frame, and used up (R59). -/
theorem fetch_draws (rom : RomCode) {b : Bool} {g : Scratchpad} {ds : List Bool}
    (henv : s.env = .draws (b :: ((padBytes g).flatMap byteBits ++ ds))) :
    padOf p rom s = g ∧ envAfterFetch p rom s.env = .draws ds := by
  have hread : readByteRun p (keepsBudget p s.timing) 9 (.draws ((padBytes g).flatMap byteBits ++ ds))
      (s.sampleCount + 1) = padBytes g := readByteRun_draws p _ (padBytes g) ds _
  have hused : envAfterReads p (8 * 9) (.draws ((padBytes g).flatMap byteBits ++ ds)) = .draws ds :=
    envAfterReads_draws p ((padBytes g).flatMap byteBits) ds
  constructor
  · rw [padOf, fetchedBytes, hwidth, henv, envAfterMatch_draws, envAfterBits_draws, hread, decodeFrame_padBytes]
  · rw [envAfterFetch, hwidth, henv, envAfterMatch_draws, envAfterBits_draws, hused]

end fetch

/-! ### The checked reads (R231, R235) -/

/-- Where a command stands that ends with its read transaction, with this result and this cause. -/
def endsAfterRead (i : Instr) (rom : RomCode) (r : Result) (cause : ErrCause) (s : State) : State :=
  { s with
    presence := !Slots.slotSample .reset s
    err := cause
    busDrive := .released
    trace := []
    env := envAfterFetch s.config rom s.env
    sampleCount := s.sampleCount + 73
    observations :=
      s.observations ++
        [⟨i, r, readPadTrace s.config rom (Slots.slotSample .reset s) (padOf s.config rom s)⟩] }

theorem finishCommand_afterFetch {s : State} (hwidths : FixedWidths s.config) (i : Instr) (rom : RomCode) (r : Result)
    (cause : ErrCause) :
    finishCommand i r (setErr cause (afterFetch s.config rom (beginCommand s))) = endsAfterRead i rom r cause s := by
  rw [afterFetch, readBytesTrace_fetched hwidths.2, sampleCount_fetched hwidths.2, ← beginCommand_config s,
    presenceOf_config (beginCommand s), Bool.not_not]
  rfl

section checked

variable (rom : RomCode) {s : State} (hinit : s.init = true) (hwidths : FixedWidths s.config)
include hinit hwidths

theorem exec_readScratchpad_eq :
    exec (.readScratchpad rom) s =
      .next (endsAfterRead (.readScratchpad rom) rom
        (.pad (if crc8 s.config (padLeading (padOf s.config rom s)) = (padOf s.config rom s).crc then
          .ok (padOf s.config rom s) else .checksumError))
        (if crc8 s.config (padLeading (padOf s.config rom s)) = (padOf s.config rom s).crc then .none
          else .checksumMismatch) s) := by
  rw [exec, execReadScratchpad, command_next hinit, ← finishCommand_afterFetch hwidths]
  dsimp only
  rw [readScratchpadBody_eq]
  simp only [padOk_iff]
  rfl

theorem exec_readTemperature_eq :
    exec (.readTemperature rom) s =
      .next (endsAfterRead (.readTemperature rom) rom
        (.temp (if crc8 s.config (padLeading (padOf s.config rom s)) = (padOf s.config rom s).crc then
          .ok (decodeTemperature (padOf s.config rom s)) else .checksumError))
        (if crc8 s.config (padLeading (padOf s.config rom s)) = (padOf s.config rom s).crc then .none
          else .checksumMismatch) s) := by
  rw [exec, execReadTemperature, command_next hinit, ← finishCommand_afterFetch hwidths]
  dsimp only
  rw [readTemperatureBody_eq]
  simp only [padOk_iff]
  rfl

end checked

/-- Settles O43: `exec_readScratchpad_eq`, and the frame on fixed draws by `fetch_draws`. -/
theorem readScratchpadChecksFrame : Obligations.ReadScratchpadChecksFrame := by
  unfold Obligations.ReadScratchpadChecksFrame
  refine ⟨fun rom s hinit hwidths => ⟨Slots.slotSample .reset s, padOf s.config rom s, envAfterFetch s.config rom s.env,
    exec_readScratchpad_eq rom hinit hwidths, fun b g ds hdraws => ?_⟩,
    fun rom s hinit => CoreState.exec_before_init nofun hinit⟩
  exact ⟨(Slots.slotSample_of_draws .reset hdraws).1, fetch_draws hwidths.2 rom hdraws⟩

/-- Settles O44: `exec_readTemperature_eq`, and the frame on fixed draws by `fetch_draws`. -/
theorem readTemperatureReturnsRaw : Obligations.ReadTemperatureReturnsRaw := by
  unfold Obligations.ReadTemperatureReturnsRaw
  refine ⟨fun rom s hinit hwidths => ⟨Slots.slotSample .reset s, padOf s.config rom s, envAfterFetch s.config rom s.env,
    exec_readTemperature_eq rom hinit hwidths, fun b g ds hdraws => ?_⟩,
    fun rom s hinit => CoreState.exec_before_init nofun hinit⟩
  exact ⟨(Slots.slotSample_of_draws .reset hdraws).1, fetch_draws hwidths.2 rom hdraws⟩

/-! ### SET_RESOLUTION (R245, R246) -/

/-- The three bytes of the write transaction: TH and TL as read, and the configuration byte of the resolution. -/
def resolutionBytes (p : Params) (rom : RomCode) (res : Resolution) (s : State) : List Byte :=
  writeFrame p { padOf p rom s with cfg := cfgByte p res }

/-- The sample of the second reset slot, the write transaction's (R245). -/
def secondPresenceSample (rom : RomCode) (s : State) : Bool :=
  Slots.slotSample .reset (afterFetch s.config rom s)

/-- The environment after both transactions. -/
def envAfterResolution (p : Params) (rom : RomCode) (res : Resolution) (s : State) : Env :=
  envAfterBits p ((0x4E#8 :: resolutionBytes p rom res s).flatMap byteBits)
    (envAfterMatch p rom (envAfterFetch p rom s.env))

section resolution

variable {rom : RomCode} {s : State} (hinit : s.init = true) (hwidths : FixedWidths s.config) (res : Resolution)
include hinit hwidths

/-- After a good read the write transaction follows. -/
theorem exec_setResolution_ok (h : crc8 s.config (padLeading (padOf s.config rom s)) = (padOf s.config rom s).crc) :
    exec (.setResolution rom res) s =
      .next { s with
        presence := !secondPresenceSample rom s
        err := .none
        busDrive := .released
        trace := []
        env := envAfterResolution s.config rom res s
        sampleCount := s.sampleCount + 74
        observations :=
          s.observations ++
            [⟨.setResolution rom res, .bool true,
              readPadTrace s.config rom (Slots.slotSample .reset s) (padOf s.config rom s) ++
                matchTrace s.config rom (secondPresenceSample rom s) ++
                writeBytesTrace s.config (0x4E#8 :: resolutionBytes s.config rom res s)⟩] } := by
  have hpad : padOk s.config (padOf s.config rom (beginCommand s)) = true := (padOk_iff _ _).mpr h
  have hfirst : presenceOf s.config (beginCommand s) = !Slots.slotSample .reset s := rfl
  have hsecond : presenceOf s.config (afterFetch s.config rom (beginCommand s)) = !secondPresenceSample rom s := rfl
  have hbytes : writeFrame s.config { padOf s.config rom (beginCommand s) with cfg := cfgByte s.config res } =
    resolutionBytes s.config rom res s := rfl
  rw [exec, execSetResolution, command_next hinit]
  dsimp only
  rw [beginCommand_config, setResolutionBody_ok res hpad, writeScratchpad_eq, hsecond, Bool.not_not, hbytes, afterFetch,
    readBytesTrace_fetched hwidths.2, sampleCount_fetched hwidths.2, hfirst, Bool.not_not, writePadTrace,
    ← List.append_assoc, beginCommand_trace, List.nil_append, envAfterResolution]
  simp only [finishCommand, setErr, beginCommand]
  rfl

/-- After a bad one nothing more is sent. -/
theorem exec_setResolution_fail (h : crc8 s.config (padLeading (padOf s.config rom s)) ≠ (padOf s.config rom s).crc) :
    exec (.setResolution rom res) s =
      .next (endsAfterRead (.setResolution rom res) rom (.bool false) .checksumMismatch s) := by
  have hpad : ¬padOk s.config (padOf s.config rom (beginCommand s)) = true := mt (padOk_iff _ _).mp h
  rw [exec, execSetResolution, command_next hinit, ← finishCommand_afterFetch hwidths]
  dsimp only
  rw [beginCommand_config, setResolutionBody_fail res hpad]

end resolution

/-- The draws of both transactions: a presence sample and a frame, and another presence sample. -/
theorem secondPresenceSample_of_draws {rom : RomCode} {s : State} (hwidths : FixedWidths s.config) {b c : Bool}
    {g : Scratchpad} {ds : List Bool} (henv : s.env = .draws (b :: ((padBytes g).flatMap byteBits ++ c :: ds))) :
    secondPresenceSample rom s = c :=
  (Slots.slotSample_of_draws (s := afterFetch s.config rom s) .reset (fetch_draws hwidths.2 rom henv).2).1

theorem envAfterResolution_of_draws {rom : RomCode} {s : State} (hwidths : FixedWidths s.config) (res : Resolution)
    {b c : Bool} {g : Scratchpad} {ds : List Bool}
    (henv : s.env = .draws (b :: ((padBytes g).flatMap byteBits ++ c :: ds))) :
    envAfterResolution s.config rom res s = .draws ds := by
  rw [envAfterResolution, (fetch_draws hwidths.2 rom henv).2, envAfterMatch_draws, envAfterBits_draws]

/-- `write_frame` (R266) after the command byte 0x4E, in either order. -/
theorem resolutionBytes_eq (p : Params) (rom : RomCode) (res : Resolution) (s : State) :
    (p.wsOrder = .thTlCfg → resolutionBytes p rom res s = [(padOf p rom s).th, (padOf p rom s).tl, cfgByte p res]) ∧
      (p.wsOrder = .cfgTlTh → resolutionBytes p rom res s = [cfgByte p res, (padOf p rom s).tl, (padOf p rom s).th]) := by
  constructor <;> intro horder <;> rw [resolutionBytes, writeFrame, horder]

/-- Settles O45: the two ends of the command, and its draws. -/
theorem setResolutionWritesOrFailsClosed : Obligations.SetResolutionWritesOrFailsClosed := by
  unfold Obligations.SetResolutionWritesOrFailsClosed
  refine ⟨fun rom res s hinit hwidths => ?_, rfl, fun res => by cases res <;> rfl,
    fun rom res s hinit => CoreState.exec_before_init nofun hinit⟩
  obtain ⟨horder, horder'⟩ := resolutionBytes_eq s.config rom res s
  refine ⟨Slots.slotSample .reset s, secondPresenceSample rom s, padOf s.config rom s,
    if crc8 s.config (padLeading (padOf s.config rom s)) = (padOf s.config rom s).crc then
      envAfterResolution s.config rom res s else envAfterFetch s.config rom s.env, fun hok => ?_, fun hbad => ?_,
    fun b g c ds hdraws => ⟨(Slots.slotSample_of_draws .reset hdraws).1, secondPresenceSample_of_draws hwidths hdraws,
      (fetch_draws hwidths.2 rom hdraws).1, ?_⟩⟩
  · rw [exec_setResolution_ok hinit hwidths res hok, if_pos hok]
    cases h : s.config.wsOrder with
    | thTlCfg => rw [horder h]
    | cfgTlTh => rw [horder' h]
  · rw [exec_setResolution_fail hinit hwidths res hbad, if_neg hbad]
    rfl
  · rw [envAfterResolution_of_draws hwidths res hdraws, (fetch_draws hwidths.2 rom hdraws).2]
    split <;> rfl

/-! ### The addressed device on the reference bus (R62, R64, R65, R220) -/

/-- The device with this code is in this phase, and every other device is deselected. -/
def addressed (rom : RomCode) (phase : Phase) (d : Device) : Device :=
  { d with phase := if d.rom = rom then phase else .deselected }

theorem addressed_of_rom_eq {rom : RomCode} {d : Device} (h : d.rom = rom) (phase : Phase) :
    addressed rom phase d = { d with phase := phase } := by
  rw [addressed, if_pos h]

theorem addressed_of_rom_ne {rom : RomCode} {d : Device} (h : d.rom ≠ rom) (phase : Phase) :
    addressed rom phase d = { d with phase := .deselected } := by
  rw [addressed, if_neg h]

/-- A device after a run of written bits. -/
def deviceAfterBits (p : Params) (bs : List Bool) (d : Device) : Device :=
  bs.foldl (fun e b => deviceSlot p (.write b) e) d

theorem deviceAfterBits_append (p : Params) (as bs : List Bool) (d : Device) :
    deviceAfterBits p (as ++ bs) d = deviceAfterBits p bs (deviceAfterBits p as d) :=
  List.foldl_append

/-- Written bits reach every reference device. -/
theorem envAfterBits_reference (p : Params) (bs : List Bool) (devices : List Device) :
    envAfterBits p bs (.reference devices) = .reference (devices.map (deviceAfterBits p bs)) := by
  induction bs generalizing devices with
  | nil => exact congrArg Env.reference (List.map_id' devices).symm
  | cons b bs ih =>
    rw [envAfterBits_cons, envAfterSlot, ih, List.map_map]
    rfl

/-- A deselected device stays so. -/
theorem deviceAfterBits_deselected (p : Params) (bs : List Bool) (d : Device) :
    deviceAfterBits p bs { d with phase := .deselected } = { d with phase := .deselected } := by
  induction bs with
  | nil => rfl
  | cons b bs ih => exact ih

/-- The first `k` bits of a value written into an empty register, bit 0 first (R62, R64, R65). -/
def firstBits {w : Nat} (v : BitVec w) (k : Nat) : BitVec w :=
  (List.range k).foldl (fun r i => setBit r i (v.getLsbD i)) 0#w

theorem firstBits_succ {w : Nat} (v : BitVec w) (k : Nat) :
    firstBits v (k + 1) = setBit (firstBits v k) k (v.getLsbD k) := by
  rw [firstBits, List.range_succ, List.foldl_append]
  rfl

theorem getLsbD_firstBits {w : Nat} (v : BitVec w) {k i : Nat} (hk : k ≤ w) (hi : i < w) :
    (firstBits v k).getLsbD i = if i < k then v.getLsbD i else false := by
  induction k with
  | zero => simp [firstBits]
  | succ k ih =>
    rw [firstBits_succ, getLsbD_setBit _ _ _ _ (by omega) hi, ih (by omega)]
    rcases Nat.lt_trichotomy i k with hlt | rfl | hgt
    · rw [if_neg hlt.ne, if_pos hlt, if_pos (by omega)]
    · rw [if_pos rfl, if_pos (by omega)]
    · rw [if_neg hgt.ne', if_neg (by omega), if_neg (by omega)]

/-- All the bits of a value make the value. -/
theorem firstBits_width {w : Nat} (v : BitVec w) : firstBits v w = v :=
  BitVec.eq_of_getLsbD_eq fun i hi => by rw [getLsbD_firstBits v (Nat.le_refl w) hi, if_pos hi]

/-- The first `k` bits of a value, bit 0 first. -/
def lowBits {w : Nat} (v : BitVec w) (k : Nat) : List Bool :=
  (List.range k).map v.getLsbD

theorem flatMap_byteBits_romBytes (rom : RomCode) : (romBytes rom).flatMap byteBits = lowBits rom 64 := by
  simp only [romBytes, romByte, List.flatMap_cons, List.flatMap_nil, byteBits, BitVec.getLsbD_extractLsb']
  rfl

/-- A device that takes the bits of a value through these phases is at the last of them as the last bit comes. -/
theorem deviceAfterBits_phases (p : Params) {w n : Nat} (v : BitVec w) (d : Device) (phase : Nat → Phase)
    (hstep : ∀ k, k < n → deviceSlot p (.write (v.getLsbD k)) { d with phase := phase k } =
      { d with phase := phase (k + 1) }) :
    deviceAfterBits p (lowBits v (n + 1)) { d with phase := phase 0 } =
      deviceSlot p (.write (v.getLsbD n)) { d with phase := phase n } := by
  have hlast (k : Nat) (e : Device) : deviceAfterBits p (lowBits v (k + 1)) e =
      deviceSlot p (.write (v.getLsbD k)) (deviceAfterBits p (lowBits v k) e) := by
    rw [lowBits, List.range_succ, List.map_append, deviceAfterBits_append]
    rfl
  have hphases (k : Nat) (hk : k ≤ n) :
      deviceAfterBits p (lowBits v k) { d with phase := phase 0 } = { d with phase := phase k } := by
    induction k with
    | zero => rfl
    | succ k ih => rw [hlast, ih (by omega), hstep k hk]
  rw [hlast, hphases n (Nat.le_refl n)]

/-- A ROM command byte decides the phase (R62). -/
theorem deviceAfterBits_romCmd (p : Params) (v : Byte) (d : Device) :
    deviceAfterBits p (byteBits v) { d with phase := .romCmd 0 0#8 } = { d with phase := romCommandPhase v } := by
  refine (deviceAfterBits_phases p (n := 7) v d (fun k => .romCmd k (firstBits v k)) fun k hk => ?_).trans ?_
  · simp only [deviceSlot, deviceTakesWrite, if_neg hk.ne, firstBits_succ]
  · simp only [deviceSlot, deviceTakesWrite, if_true, ← firstBits_succ, firstBits_width]

/-- And so does a function command byte (R64). -/
theorem deviceAfterBits_funcCmd (p : Params) (v : Byte) (d : Device) :
    deviceAfterBits p (byteBits v) { d with phase := .funcCmd 0 0#8 } =
      { d with phase := functionCommandPhase d v } := by
  refine (deviceAfterBits_phases p (n := 7) v d (fun k => .funcCmd k (firstBits v k)) fun k hk => ?_).trans ?_
  · simp only [deviceSlot, deviceTakesWrite, if_neg hk.ne, firstBits_succ]
  · simp only [deviceSlot, deviceTakesWrite, if_true, ← firstBits_succ, firstBits_width]
    rfl

/-- Twenty-four bits enter the scratchpad (R65). -/
theorem deviceAfterBits_recvPad (p : Params) (v : BitVec 24) (d : Device) :
    deviceAfterBits p (lowBits v 24) { d with phase := .recvPad 0 0#24 } = storePad p d v := by
  refine (deviceAfterBits_phases p (n := 23) v d (fun k => .recvPad k (firstBits v k)) fun k hk => ?_).trans ?_
  · simp only [deviceSlot, deviceTakesWrite, if_neg hk.ne, firstBits_succ]
  · simp only [deviceSlot, deviceTakesWrite, if_true, ← firstBits_succ, firstBits_width]
    rfl

theorem decide_agreeBelow_succ (k : Nat) (a b : RomCode) :
    decide (Discovery.AgreeBelow (k + 1) a b) =
      (decide (Discovery.AgreeBelow k a b) && (a.getLsbD k == b.getLsbD k)) := by
  rw [Bool.eq_iff_iff, Bool.and_eq_true, decide_eq_true_iff, decide_eq_true_iff, beq_iff_eq]
  exact Nat.forall_lt_succ_right

/-- The address selects the device that has it, and deselects every other (R64, R220). -/
theorem deviceAfterBits_matching (p : Params) (rom : RomCode) (d : Device) :
    deviceAfterBits p (lowBits rom 64) { d with phase := .matching 0 true } = addressed rom (.funcCmd 0 0#8) d := by
  refine (deviceAfterBits_phases p (n := 63) rom d
    (fun k => .matching k (decide (Discovery.AgreeBelow k rom d.rom))) fun k hk => ?_).trans ?_
  · simp only [deviceSlot, deviceTakesWrite, if_neg hk.ne, decide_agreeBelow_succ]
  · have hall : decide (Discovery.AgreeBelow 64 rom d.rom) = decide (d.rom = rom) :=
      decide_eq_decide.mpr ⟨fun h => (Discovery.eq_of_agreeBelow h).symm, fun h _ _ => h ▸ rfl⟩
    simp only [deviceSlot, deviceTakesWrite, if_true, ← decide_agreeBelow_succ, hall, decide_eq_true_iff]
    rfl

/-- The match transaction leaves the device with the code waiting for a function command (R64, R220). -/
theorem envAfterMatch_reference (p : Params) (rom : RomCode) (devices : List Device) :
    envAfterMatch p rom (.reference devices) = .reference (devices.map (addressed rom (.funcCmd 0 0#8))) := by
  rw [envAfterMatch, envAfterSample, envAfterSlot, envAfterBits_reference, List.map_map, List.flatMap_cons,
    flatMap_byteBits_romBytes]
  refine congrArg Env.reference (List.map_congr_left fun d _ => ?_)
  rw [Function.comp_apply, deviceSlot, deviceAfterBits_append, deviceAfterBits_romCmd]
  exact deviceAfterBits_matching p rom d

/-- A function command reaches the addressed device alone. -/
theorem deviceAfterBits_addressed_funcCmd (p : Params) (rom : RomCode) (v : Byte) (d : Device) :
    deviceAfterBits p (byteBits v) (addressed rom (.funcCmd 0 0#8) d) = addressed rom (functionCommandPhase d v) d := by
  by_cases h : d.rom = rom
  · rw [addressed_of_rom_eq h, addressed_of_rom_eq h, deviceAfterBits_funcCmd]
  · rw [addressed_of_rom_ne h, addressed_of_rom_ne h, deviceAfterBits_deselected]

/-! ### The addressed device sends its scratchpad (R65, SendPad) -/

/-- The addressed device has sent the first `i` bits of its scratchpad, idle after the last of the 72. -/
def sending (rom : RomCode) (i : Nat) (d : Device) : Device :=
  addressed rom (if i = 72 then .idle else .sendPad i) d

theorem sending_all (rom : RomCode) : sending rom (0 + 72) = addressed rom .idle := by
  funext d
  rw [sending, Nat.zero_add, if_pos rfl]

theorem deviceSlot_read_sending (p : Params) (rom : RomCode) {i : Nat} (hi : i < 72) (d : Device) :
    deviceSlot p .read (sending rom i d) = sending rom (i + 1) d := by
  rw [sending, sending, if_neg hi.ne]
  by_cases h : d.rom = rom
  · rw [addressed_of_rom_eq h, addressed_of_rom_eq h]
    simp [deviceSlot, deviceTakesRead]
  · rw [addressed_of_rom_ne h, addressed_of_rom_ne h]
    rfl

theorem devicePullsLow_sending {rom : RomCode} {i : Nat} (hi : i < 72) (d : Device) :
    devicePullsLow (sending rom i d) = true ↔ d.rom = rom ∧ devicePadBit d i = false := by
  rw [sending, if_neg hi.ne]
  by_cases h : d.rom = rom
  · rw [addressed_of_rom_eq h, and_iff_right h]
    simp [devicePullsLow, devicePadBit]
  · rw [addressed_of_rom_ne h]
    exact iff_of_false Bool.false_ne_true fun hand => h hand.1

theorem envAfterSlot_sending (p : Params) (devices : List Device) (rom : RomCode) {i : Nat} (hi : i < 72) :
    envAfterSlot p .read (envAfterSample (.reference (devices.map (sending rom i)))) =
      .reference (devices.map (sending rom (i + 1))) := by
  rw [envAfterSample, envAfterSlot, List.map_map]
  exact congrArg Env.reference (List.map_congr_left fun d _ => deviceSlot_read_sending p rom hi d)

theorem envAfterReads_sending (p : Params) (devices : List Device) (rom : RomCode) {n i : Nat} (hn : i + n ≤ 72) :
    envAfterReads p n (.reference (devices.map (sending rom i))) = .reference (devices.map (sending rom (i + n))) := by
  induction n generalizing i with
  | zero => rfl
  | succ n ih =>
    rw [envAfterReads, envAfterSlot_sending p devices rom (by omega), ih (by omega), Nat.add_assoc, Nat.add_comm 1]

/-- Bits `8 * m` to `8 * m + 7` are those of byte `m`. -/
theorem byteOfBits_devicePadBit (d : Device) (m : Nat) :
    byteOfBits ((List.range' (8 * m) 8).map (devicePadBit d)) = (padBytes d.pad).getD m 0#8 := by
  have hbits : (List.range' (8 * m) 8).map (devicePadBit d) = byteBits ((padBytes d.pad).getD m 0#8) := by
    rw [ByteTransport.byteBits_eq_map_range, List.range'_eq_map_range, List.map_map]
    refine List.map_congr_left fun j hj => ?_
    have hj : j < 8 := List.mem_range.mp hj
    rw [Function.comp_apply, devicePadBit, show (8 * m + j) / 8 = m by omega, show (8 * m + j) % 8 = j by omega]
  rw [hbits, byteOfBits_byteBits]

section send

variable (p : Params) {devices : List Device} {d : Device} (hnodup : (devices.map (·.rom)).Nodup) (hd : d ∈ devices)
include hnodup hd

/-- With distinct codes the line carries the bits of the one device. -/
theorem lineLevel_sending {i : Nat} (hi : i < 72) (n : Nat) :
    lineLevel true (.reference (devices.map (sending d.rom i))) .released .read n = devicePadBit d i := by
  have hone : (∃ e ∈ devices, devicePullsLow (sending d.rom i e) = true) ↔ devicePadBit d i = false := by
    simp only [devicePullsLow_sending hi]
    constructor
    · rintro ⟨e, he, hrom, hbit⟩
      obtain rfl := List.inj_on_of_nodup_map hnodup he hd hrom
      exact hbit
    · exact fun hbit => ⟨d, hd, rfl, hbit⟩
  rw [Bool.eq_iff_iff, Discovery.lineLevel_reference_map, hone, Bool.not_eq_false]

theorem readRun_sending {n i : Nat} (hn : i + n ≤ 72) (k : Nat) :
    readRun p true n (.reference (devices.map (sending d.rom i))) k = (List.range' i n).map (devicePadBit d) := by
  induction n generalizing i k with
  | zero => rfl
  | succ n ih =>
    rw [readRun, lineLevel_sending hnodup hd (by omega), envAfterSlot_sending p devices d.rom (by omega), ih (by omega)]
    rfl

theorem readByteRun_sending {n m : Nat} (hn : m + n ≤ 9) (k : Nat) :
    readByteRun p true n (.reference (devices.map (sending d.rom (8 * m)))) k = ((padBytes d.pad).drop m).take n := by
  induction n generalizing m k with
  | zero => rfl
  | succ n ih =>
    have hm : m < (padBytes d.pad).length := show m < 9 by omega
    rw [readByteRun, readRun_sending p hnodup hd (by omega), byteOfBits_devicePadBit,
      envAfterReads_sending p devices d.rom (by omega), ← Nat.mul_succ, ih (by omega), List.drop_eq_getElem_cons hm,
      List.take_succ_cons, List.getD_eq_getElem _ _ hm]

end send

/-! ### A read transaction on the reference bus (R65, R230) -/

theorem functionCommandPhase_readScratchpad (d : Device) : functionCommandPhase d 0xBE#8 = .sendPad 0 := rfl

theorem functionCommandPhase_writeScratchpad (d : Device) : functionCommandPhase d 0x4E#8 = .recvPad 0 0#24 := rfl

/-- The match and 0xBE make the addressed device send. -/
theorem envAfterReadCommand_reference (p : Params) (rom : RomCode) (devices : List Device) :
    envAfterBits p (byteBits 0xBE#8) (envAfterMatch p rom (.reference devices)) =
      .reference (devices.map (sending rom 0)) := by
  rw [envAfterMatch_reference, envAfterBits_reference, List.map_map]
  refine congrArg Env.reference (List.map_congr_left fun d _ => ?_)
  rw [Function.comp_apply, deviceAfterBits_addressed_funcCmd, functionCommandPhase_readScratchpad]
  rfl

/-- The read transaction leaves every scratchpad as it is. -/
theorem envAfterFetch_reference {p : Params} (hwidth : p.scratchpadBytes = 9) (rom : RomCode) (devices : List Device) :
    envAfterFetch p rom (.reference devices) = .reference (devices.map (addressed rom .idle)) := by
  rw [envAfterFetch, hwidth, envAfterReadCommand_reference,
    envAfterReads_sending p devices rom (n := 72) (i := 0) (by omega), sending_all]

/-- An initialised core on time, with a device on its reference bus whose code no other device there has. -/
structure OnBusWith (devices : List Device) (d : Device) (s : State) : Prop where
  init : s.init = true
  widths : FixedWidths s.config
  onTime : OnTime s
  env : s.env = .reference devices
  nodup : (devices.map (·.rom)).Nodup
  mem : d ∈ devices

/-- The frame received is the scratchpad of the device. -/
theorem OnBusWith.padOf_eq {devices : List Device} {d : Device} {s : State} (h : OnBusWith devices d s) :
    padOf s.config d.rom s = d.pad := by
  have hbytes : fetchedBytes s.config d.rom s = padBytes d.pad := by
    rw [fetchedBytes, h.widths.2, h.env, envAfterReadCommand_reference, Memory.keepsBudget_of_onTime h.onTime]
    exact readByteRun_sending s.config h.nodup h.mem (m := 0) (Nat.le_refl 9) _
  rw [padOf, hbytes, decodeFrame_padBytes]

/-- READ_SCRATCHPAD returns the scratchpad of a device where it passes its check. -/
theorem OnBusWith.readScratchpad_returns {devices : List Device} {d : Device} {s : State} (h : OnBusWith devices d s)
    (hok : crc8 s.config (padLeading d.pad) = d.pad.crc) :
    ∃ u tr, exec (.readScratchpad d.rom) s = .next u ∧
      u.observations = s.observations ++ [⟨.readScratchpad d.rom, .pad (.ok d.pad), tr⟩] := by
  have hread := exec_readScratchpad_eq d.rom h.init h.widths
  rw [h.padOf_eq, if_pos hok, if_pos hok] at hread
  exact ⟨_, _, hread, rfl⟩

/-! ### A write transaction on the reference bus (R65, RecvPad, R245) -/

/-- The addressed device has stored three bytes in its scratchpad, and every other device is deselected. -/
def storing (p : Params) (rom : RomCode) (v : BitVec 24) (d : Device) : Device :=
  if d.rom = rom then storePad p d v else { d with phase := .deselected }

@[simp] theorem storing_rom (p : Params) (rom : RomCode) (v : BitVec 24) (d : Device) :
    (storing p rom v d).rom = d.rom := by
  rw [storing]
  split <;> rfl

/-- Storing does not depend on the phase the device was left in. -/
theorem storing_addressed (p : Params) (rom : RomCode) (v : BitVec 24) (phase : Phase) (d : Device) :
    storing p rom v (addressed rom phase d) = storing p rom v d := rfl

theorem lowBits_append {m n : Nat} (a : BitVec m) (b : BitVec n) :
    lowBits (a ++ b) (n + m) = lowBits b n ++ lowBits a m := by
  rw [lowBits, List.range_add, List.map_append, List.map_map]
  congr 1
  · refine List.map_congr_left fun i hi => ?_
    rw [BitVec.getLsbD_append, if_pos (List.mem_range.mp hi)]
  · refine List.map_congr_left fun i _ => ?_
    rw [Function.comp_apply, BitVec.getLsbD_append, if_neg (by omega), Nat.add_sub_cancel_left]

/-- Three bytes in the order TH, TL, CFG are the value that `RecvPad` collects (R65). -/
theorem flatMap_byteBits_triple (th tl cfg : Byte) : [th, tl, cfg].flatMap byteBits = lowBits (cfg ++ tl ++ th) 24 := by
  rw [lowBits_append (cfg ++ tl) th, lowBits_append cfg tl]
  rfl

/-- And they are stored as TH, TL and CFG. -/
theorem storePad_triple (p : Params) (d : Device) (th tl cfg : Byte) :
    storePad p d (cfg ++ tl ++ th) =
      { d with pad := refreshCrc p { d.pad with th := th, tl := tl, cfg := cfg }, phase := .idle } := by
  have hth : (cfg ++ tl ++ th).extractLsb' 0 8 = th := BitVec.extractLsb'_append_eq_right
  have htl : (cfg ++ tl ++ th).extractLsb' 8 8 = tl := by
    rw [BitVec.extractLsb'_append_eq_of_le (by decide)]
    exact BitVec.extractLsb'_append_eq_right
  have hcfg : (cfg ++ tl ++ th).extractLsb' 16 8 = cfg := by
    rw [BitVec.extractLsb'_append_eq_of_le (by decide)]
    exact BitVec.extractLsb'_append_eq_left
  rw [storePad, hth, htl, hcfg]

/-- The match, 0x4E and three bytes store them in the addressed device. -/
theorem envAfterWrite_reference (p : Params) (rom : RomCode) (devices : List Device) (th tl cfg : Byte) :
    envAfterBits p ((0x4E#8 :: [th, tl, cfg]).flatMap byteBits) (envAfterMatch p rom (.reference devices)) =
      .reference (devices.map (storing p rom (cfg ++ tl ++ th))) := by
  rw [envAfterMatch_reference, envAfterBits_reference, List.map_map, List.flatMap_cons, flatMap_byteBits_triple]
  refine congrArg Env.reference (List.map_congr_left fun d _ => ?_)
  rw [Function.comp_apply, deviceAfterBits_append, deviceAfterBits_addressed_funcCmd,
    functionCommandPhase_writeScratchpad, storing]
  by_cases h : d.rom = rom
  · rw [addressed_of_rom_eq h, if_pos h]
    exact deviceAfterBits_recvPad p _ d
  · rw [addressed_of_rom_ne h, if_neg h, deviceAfterBits_deselected]

/-! ### SET_RESOLUTION reads back (R248) -/

/-- The scratchpad of a device once its resolution is set. -/
def padAtResolution (p : Params) (res : Resolution) (f : Scratchpad) : Scratchpad :=
  refreshCrc p { f with cfg := cfgByte p res }

/-- The device whose resolution is set holds that scratchpad, idle; every other device is deselected. -/
theorem storing_self (p : Params) (res : Resolution) (d : Device) :
    storing p d.rom (cfgByte p res ++ d.pad.tl ++ d.pad.th) d =
      { d with pad := padAtResolution p res d.pad, phase := .idle } := by
  rw [storing, if_pos rfl, storePad_triple]
  rfl

/-- The environment after both transactions. -/
theorem OnBusWith.envAfterResolution_eq {devices : List Device} {d : Device} {s : State} (h : OnBusWith devices d s)
    (horder : s.config.wsOrder = .thTlCfg) (res : Resolution) :
    envAfterResolution s.config d.rom res s =
      .reference (devices.map (storing s.config d.rom (cfgByte s.config res ++ d.pad.tl ++ d.pad.th))) := by
  rw [envAfterResolution, (resolutionBytes_eq s.config d.rom res s).1 horder, h.padOf_eq, h.env,
    envAfterFetch_reference h.widths.2, envAfterWrite_reference, List.map_map]
  exact congrArg Env.reference (List.map_congr_left fun e _ => storing_addressed ..)

/-- After a good read SET_RESOLUTION leaves the device with the scratchpad of its resolution, still alone with its
code. -/
theorem OnBusWith.setResolution_stores {devices : List Device} {d : Device} {s : State} (h : OnBusWith devices d s)
    (hok : crc8 s.config (padLeading d.pad) = d.pad.crc) (horder : s.config.wsOrder = .thTlCfg) (res : Resolution) :
    ∃ t tr devices', exec (.setResolution d.rom res) s = .next t ∧
      t.observations = s.observations ++ [⟨.setResolution d.rom res, .bool true, tr⟩] ∧ t.config = s.config ∧
      OnBusWith devices' { d with pad := padAtResolution s.config res d.pad, phase := .idle } t := by
  have hset := exec_setResolution_ok h.init h.widths res (rom := d.rom) (by rwa [h.padOf_eq])
  rw [h.envAfterResolution_eq horder] at hset
  refine ⟨_, _, _, hset, rfl, rfl, h.init, h.widths, h.onTime, rfl, ?_, ?_⟩
  · simpa only [List.map_map, Function.comp_def, storing_rom] using h.nodup
  · rw [← storing_self]
    exact List.mem_map_of_mem h.mem

/-- Settles O46: `OnBusWith.setResolution_stores`, and `OnBusWith.readScratchpad_returns` of the scratchpad stored, whose
CRC byte is renewed. -/
theorem resolutionReadsBack : Obligations.ResolutionReadsBack := by
  unfold Obligations.ResolutionReadsBack
  intro s devices d res hinit henv hnodup hd hpad hwidths horder htime
  have hbus : OnBusWith devices d s := ⟨hinit, hwidths, htime, henv, hnodup, hd⟩
  obtain ⟨t, tr, devices', hset, hsetObserved, hconfig, hbus'⟩ :=
    hbus.setResolution_stores ((padOk_iff _ _).mp hpad) horder res
  obtain ⟨u, tr', hread, hreadObserved⟩ := hbus'.readScratchpad_returns (hconfig ▸ rfl)
  exact ⟨t, u, tr, tr', _, hset, hsetObserved, hread, hreadObserved, rfl, rfl, rfl, rfl, rfl, rfl, rfl, rfl, rfl⟩

/-! ### The modelled time of every command (R249, R360) -/

/-- The observation of a command holds what its body answers and leaves as its trace (R70). -/
theorem observation_of_command {i : Instr} {answer : State → Result} {after : State → State} {s t : State} {r : Result}
    {tr : List BusEvent} (h : command i (fun u => (answer u, after u)) s = .next t)
    (ho : t.observations = s.observations ++ [⟨i, r, tr⟩]) :
    r = answer (beginCommand s) ∧ tr = (after (beginCommand s)).trace := by
  have hobserved := (Slots.observed_of_command h ho).2
  injection hobserved with _ hresult htrace
  exact ⟨hresult, htrace⟩

theorem measured_of_command {i : Instr} {answer : State → Result} {after : State → State} {s t : State} {r : Result}
    {tr : List BusEvent} {time slots resets : Nat} (h : command i (fun u => (answer u, after u)) s = .next t)
    (ho : t.observations = s.observations ++ [⟨i, r, tr⟩])
    (hbody : Measured (after (beginCommand s)).trace time slots resets) : Measured tr time slots resets :=
  (observation_of_command h ho).2 ▸ hbody

/-- What an operation appends to the trace adds to its measure. -/
theorem measured_of_append {s u : State} {tr : List BusEvent} {a b c d e f : Nat} (hs : Measured s.trace a b c)
    (hu : u.trace = s.trace ++ tr) (htr : Measured tr d e f) : Measured u.trace (a + d) (b + e) (c + f) :=
  hu ▸ hs.append htr

section measured

variable {p : Params} (hp : p = params) {s : State} {time slots resets : Nat} (hs : Measured s.trace time slots resets)
include hp hs

theorem writeBit_measured (b : Bool) : Measured (writeBit p b s).trace (time + 70) (slots + 1) (resets + 0) := by
  subst hp
  exact measured_of_append hs (congrArg State.trace (writeBit_eq ..)) (measured_writeBit b)

theorem slotRead_measured : Measured (slotRead p s).2.trace (time + 70) (slots + 1) (resets + 0) := by
  subst hp
  exact measured_of_append hs (congrArg State.trace (slotRead_snd ..)) (measured_readBit _)

theorem slotReset_measured : Measured (slotReset p s).2.trace (time + 960) (slots + 1) (resets + 1) := by
  subst hp
  exact measured_of_append hs (congrArg State.trace (slotReset_snd ..)) (measured_reset _)

theorem writeByte_measured (v : Byte) : Measured (writeByte p v s).trace (time + 560) (slots + 8) (resets + 0) := by
  subst hp
  exact measured_of_append hs (congrArg State.trace (writeByte_eq ..)) (measured_writeByte v)

theorem sendWire_measured (c : WireCmd) : Measured (sendWire p c s).trace (time + 560) (slots + 8) (resets + 0) :=
  writeByte_measured hp hs (wireByte c)

theorem readByte_measured : Measured (readByte p s).2.trace (time + 560) (slots + 8) (resets + 0) := by
  subst hp
  exact measured_of_append hs (congrArg (·.2.trace) (readByte_eq ..)) (measured_readByte _)

theorem matchRom_measured (rom : RomCode) :
    Measured (matchRom p rom s).trace (time + 6000) (slots + 73) (resets + 1) := by
  subst hp
  exact measured_of_append hs (congrArg State.trace (matchRom_eq ..)) (measured_match rom _)

theorem afterFetch_measured (rom : RomCode) :
    Measured (afterFetch p rom s).trace (time + 11600) (slots + 153) (resets + 1) := by
  subst hp
  exact measured_of_append hs rfl (measured_readBytes rom _ (fetchedBytes_length params rom s))

theorem writeScratchpad_measured (rom : RomCode) (f : Scratchpad) :
    Measured (writeScratchpad p rom f s).trace (time + 8240) (slots + 105) (resets + 1) := by
  subst hp
  exact measured_of_append hs (congrArg State.trace (writeScratchpad_eq ..)) (measured_writePad rom _ f)

theorem readScratchpadBody_measured (rom : RomCode) :
    Measured (readScratchpadBody p rom s).2.trace (time + 11600) (slots + 153) (resets + 1) := by
  rw [readScratchpadBody_eq]
  exact afterFetch_measured hp hs rom

theorem readTemperatureBody_measured (rom : RomCode) :
    Measured (readTemperatureBody p rom s).2.trace (time + 11600) (slots + 153) (resets + 1) := by
  rw [readTemperatureBody_eq]
  exact afterFetch_measured hp hs rom

/-- SET_RESOLUTION ends after its read transaction, or goes on with its write transaction (R245, R249). -/
theorem setResolutionBody_measured (rom : RomCode) (res : Resolution) :
    ((setResolutionBody p rom res s).1 = true ∧
        Measured (setResolutionBody p rom res s).2.trace (time + 11600 + 8240) (slots + 153 + 105) (resets + 1 + 1)) ∨
      ((setResolutionBody p rom res s).1 = false ∧
        Measured (setResolutionBody p rom res s).2.trace (time + 11600) (slots + 153) (resets + 1)) := by
  have hfetch := afterFetch_measured hp hs rom
  by_cases hpad : padOk p (padOf p rom s) = true
  · rw [setResolutionBody_ok res hpad]
    exact .inl ⟨rfl, writeScratchpad_measured hp hfetch rom _⟩
  · rw [setResolutionBody_fail res hpad]
    exact .inr ⟨rfl, hfetch⟩

end measured

/-- The three ways a pass ends, by the cause it leaves: no presence, two ones at position `k`, or all 64 positions
(R184, R187, R193 to R195). -/
theorem searchPass_measured {p : Params} (hp : p = params) {s : State} (hs : Measured s.trace 0 0 0) :
    ((searchPass p s).2.err = .noDevicePresent ∧ Measured (searchPass p s).2.trace 960 1 1) ∨
      ((searchPass p s).2.err = .noDeviceResponse ∧
        ∃ k, k < 64 ∧ Measured (searchPass p s).2.trace (960 + 70 * (10 + 3 * k)) (11 + 3 * k) 1) ∨
      (((searchPass p s).2.err = .none ∨ (searchPass p s).2.err = .checksumMismatch) ∧
        Measured (searchPass p s).2.trace 14960 201 1) := by
  subst hp
  have hreset := slotReset_measured rfl hs
  have hstart := sendWire_measured rfl hreset .searchRom
  obtain ⟨tr, htrace, habort, hfull⟩ := searchPositions_measured s.lastDiscrepancy 64 0 (-1)
    (sendWire params .searchRom (slotReset params s).2)
  rcases searchPass_cases params s with ⟨-, h⟩ | ⟨s', -, hpos, h⟩ | ⟨lz, s', -, hpos, h⟩ <;> rw [h]
  · exact .inl ⟨rfl, hreset⟩
  · obtain ⟨k, hk, hmeasured⟩ := habort (congrArg Prod.fst hpos)
    have hs' : s'.trace = _ := (congrArg (·.2.trace) hpos.symm).trans htrace
    exact .inr (.inl ⟨rfl, k, hk, (measured_of_append hstart hs' hmeasured).of (by omega) (by omega) rfl⟩)
  · have hs' : s'.trace = _ := (congrArg (·.2.trace) hpos.symm).trans htrace
    have hmeasured := measured_of_append hstart hs' (hfull lz (congrArg Prod.fst hpos))
    rcases concludePass_cases params lz s' with ⟨-, hend⟩ | ⟨-, hend⟩ <;> rw [hend]
    · exact .inr (.inr ⟨.inl rfl, hmeasured⟩)
    · exact .inr (.inr ⟨.inr rfl, hmeasured⟩)

/-- A search step with a search to step is a pass, or the tag of a terminal state in no time (R182). -/
theorem execSearchStep_measured {s t : State} {r : Result} {tr : List BusEvent} (hconfig : s.config = params)
    (h : exec .searchStep s = .next t) (ho : t.observations = s.observations ++ [⟨.searchStep, r, tr⟩]) :
    (s.searchState ≠ .running ∧ Measured tr 0 0 0) ∨
      (s.searchState = .running ∧
        ((t.err = .noDevicePresent ∧ Measured tr 960 1 1) ∨
          (t.err = .noDeviceResponse ∧ ∃ k, k < 64 ∧ Measured tr (960 + 70 * (10 + 3 * k)) (11 + 3 * k) 1) ∨
          ((t.err = .none ∨ t.err = .checksumMismatch) ∧ Measured tr 14960 201 1))) := by
  rw [execSearchStep_eq] at h
  split at h
  case isTrue =>
    obtain rfl := Host.Outcome.next.inj h
    simp at ho
  case isFalse hnot =>
    have hinit := (Slots.observed_of_command h ho).1
    obtain ⟨-, rfl⟩ := observation_of_command h ho
    rw [command_next hinit] at h
    obtain rfl := Host.Outcome.next.inj h
    by_cases hrunning : s.searchState = .running
    · rw [CoreState.searchStep_running _ (s := beginCommand s) hrunning]
      exact .inr ⟨hrunning, searchPass_measured hconfig .nil⟩
    · rw [CoreState.searchStep_terminal _ (s := beginCommand s) hrunning fun hs => hnot ⟨hinit, hs⟩]
      exact .inl ⟨hrunning, .nil⟩

/-- Settles O59: the times of the `measured` lemmas on the body of each command. -/
theorem commandTimesAsTabled : Obligations.CommandTimesAsTabled := by
  unfold Obligations.CommandTimesAsTabled
  intro i s t r tr hconfig h ho
  cases i with
  | init =>
    obtain rfl := Host.Outcome.next.inj h
    obtain rfl := (Observation.mk.inj (List.singleton_inj.1 (List.append_inj_right' ho rfl))).2.2
    rfl
  | searchStep =>
    rcases execSearchStep_measured hconfig h ho with ⟨hstate, hm⟩ | ⟨hstate, ⟨herr, hm⟩ | ⟨herr, k, hk, hm⟩ | ⟨herr, hm⟩⟩
    · exact .inl ⟨hstate, hm.time⟩
    · exact .inr (.inl ⟨hstate, herr, hm.time⟩)
    · exact .inr (.inr (.inl ⟨hstate, herr, k, hk, hm.time⟩))
    · exact .inr (.inr (.inr ⟨hstate, herr, hm.time⟩))
  | readStatus | crc8 _ | formatTemperature _ | startSearch =>
    simp only [exec, execReadStatus, execCrc8, execFormatTemperature, execStartSearch] at h
    exact (measured_of_command h ho .nil).time
  | write1 =>
    rw [exec, execWrite1] at h
    exact (measured_of_command h ho (writeBit_measured hconfig .nil true)).time
  | write0 =>
    rw [exec, execWrite0] at h
    exact (measured_of_command h ho (writeBit_measured hconfig .nil false)).time
  | readBit | pollConversionDone _ =>
    simp only [exec, execReadBit, execPollConversionDone] at h
    exact (measured_of_command h ho (slotRead_measured hconfig .nil)).time
  | reset =>
    rw [exec, execReset] at h
    exact (measured_of_command h ho (slotReset_measured hconfig .nil)).time
  | writeByte v8 =>
    rw [exec, execWriteByte] at h
    exact (measured_of_command h ho (writeByte_measured hconfig .nil v8)).time
  | readByte =>
    rw [exec, execReadByte] at h
    exact (measured_of_command h ho (readByte_measured hconfig .nil)).time
  | wireSearchRom | wireMatchRom | wireConvertT | wireReadScratchpad | wireWriteScratchpad =>
    simp only [exec, execWireSearchRom, execWireMatchRom, execWireConvertT, execWireReadScratchpad,
      execWireWriteScratchpad] at h
    exact (measured_of_command h ho (sendWire_measured hconfig .nil _)).time
  | matchRom rom =>
    rw [exec, execMatchRom] at h
    exact (measured_of_command h ho (matchRom_measured hconfig .nil rom)).time
  | requestConversion rom =>
    rw [exec, execRequestConversion] at h
    exact (measured_of_command h ho (sendWire_measured hconfig (matchRom_measured hconfig .nil rom) .convertT)).time
  | readScratchpad rom =>
    rw [exec, execReadScratchpad] at h
    exact (measured_of_command h ho (readScratchpadBody_measured hconfig .nil rom)).time
  | readTemperature rom =>
    rw [exec, execReadTemperature] at h
    exact (measured_of_command h ho (readTemperatureBody_measured hconfig .nil rom)).time
  | setResolution rom res =>
    rw [exec, execSetResolution] at h
    obtain ⟨rfl, rfl⟩ := observation_of_command h ho
    rcases setResolutionBody_measured (s := beginCommand s) hconfig .nil rom res with ⟨hr, hm⟩ | ⟨hr, hm⟩
    · exact .inl ⟨congrArg Result.bool hr, hm.time⟩
    · exact .inr ⟨congrArg Result.bool hr, hm.time⟩

end Sys2Proof.Proofs.DeviceSession
end

section
/-! SUPPORT. The statements on the scratchpad codec (45_scratchpad_codec.md): the configuration bytes, and the text of a
temperature, whose whole part is `Nat.digits` of the magnitude's whole part and whose fraction is 625 times its rest. -/

namespace Sys2Proof.Proofs.ScratchpadCodec

open Sys2Proof.Machine Sys2Proof.Safety

/-! ### Resolutions (R264, R265) -/

/-- Whatever the parameters, a byte decodes only to a resolution whose byte it is. -/
theorem eq_cfgByte_of_decodeResolution {p : Params} {cfg : Byte} {res : Resolution}
    (h : decodeResolution p cfg = some res) : cfg = cfgByte p res := by
  unfold decodeResolution at h
  split_ifs at h with h9 h10 h11 h12 <;> obtain rfl := Option.some.inj h <;> assumption

/-- With R9's values the four bytes differ, so no earlier resolution takes another's byte. -/
theorem decodeResolution_cfgByte (res : Resolution) : decodeResolution params (cfgByte params res) = some res := by
  cases res <;> rfl

/-- Settles O51: the two directions of the match are the two lemmas above. -/
theorem configurationBytesDecode : Obligations.ConfigurationBytesDecode := by
  unfold Obligations.ConfigurationBytesDecode
  refine ⟨rfl, rfl, rfl, rfl, fun cfg res => ⟨eq_cfgByte_of_decodeResolution, ?_⟩⟩
  rintro rfl
  exact decodeResolution_cfgByte res

/-! ### The command (R268) -/

/-- FORMAT_TEMPERATURE between `beginCommand` and `finishCommand`. -/
theorem exec_formatTemperature_eq (t16 : Temperature) {s : State} (h : s.init = true) :
    exec (.formatTemperature t16) s =
      .next { s with
        trace := []
        observations := s.observations ++ [⟨.formatTemperature t16, .text (formatTemperature t16), []⟩] } := by
  rw [exec, execFormatTemperature, command_next h]
  rfl

/-- Settles O48: the frame is the instruction's own encoding, and `exec_formatTemperature_eq`. -/
theorem formatCommandReturnsText : Obligations.FormatCommandReturnsText := by
  unfold Obligations.FormatCommandReturnsText
  exact ⟨fun t16 => Encoding.decode_encode (i := .formatTemperature t16) rfl,
    fun t16 s hinit => exec_formatTemperature_eq t16 hinit, fun _ _ hinit => CoreState.exec_before_init nofun hinit⟩

/-! ### The magnitude form (R267) -/

theorem ite_bit_eq_mul (n weight : Nat) : (if n % 2 = 1 then weight else 0) = weight * (n % 2) := by
  rcases Nat.mod_two_eq_zero_or_one n with h | h <;> simp [h]

/-- The weights 625, 1250, 2500, 5000 are 625 times those of the four fraction bits. -/
theorem fractionSum_eq (raw : Temperature) : fractionSum raw = 625 * (raw.toNat % 16) := by
  simp only [fractionSum, BitVec.getLsbD, Nat.testBit_eq_decide_div_mod_eq, decide_eq_true_eq, ite_bit_eq_mul]
  omega

theorem extractFraction_ne_zero_iff (raw : Temperature) : raw.extractLsb' 0 4 ≠ 0#4 ↔ raw.toNat % 16 ≠ 0 := by
  simp [← BitVec.toNat_inj]

/-- Truncation toward zero takes the whole part of the magnitude, whatever the sign. -/
theorem wholePart_eq (t : Int) : (if t < 0 then -t.tdiv 16 else t.tdiv 16).toNat = t.natAbs / 16 := by
  have habs : (t.tdiv 16).natAbs = t.natAbs / 16 := Int.natAbs_tdiv t 16
  split
  next h =>
    have hsign := Int.tdiv_nonneg (Int.neg_nonneg_of_nonpos (Int.le_of_lt h)) (b := 16) (by decide)
    rw [Int.neg_tdiv] at hsign
    omega
  next h =>
    have hsign := Int.tdiv_nonneg (Int.not_lt.mp h) (b := 16) (by decide)
    omega

/-- Complementing a negative value's fraction sum takes the fraction of the magnitude. -/
theorem fractionPart_eq (raw : Temperature) :
    (if raw.toInt < 0 ∧ raw.toNat % 16 ≠ 0 then 10000 - 625 * (raw.toNat % 16) else 625 * (raw.toNat % 16)) =
      625 * (raw.toInt.natAbs % 16) := by
  have hbound := raw.isLt
  have hint := BitVec.toInt_eq_toNat_cond raw
  split at hint <;> split <;> omega

/-- Settles O49: whole part and fraction are those of the magnitude. -/
theorem textIsMagnitudeForm : Obligations.TextIsMagnitudeForm := by
  unfold Obligations.TextIsMagnitudeForm
  intro raw
  unfold formatTemperature sixteenths
  simp only [fractionSum_eq, Bool.and_eq_true, decide_eq_true_eq, bne_iff_ne, extractFraction_ne_zero_iff,
    wholePart_eq, fractionPart_eq]
  by_cases h : raw.toInt.natAbs % 16 = 0 <;> simp [h]

/-! ### Digit strings (R269) -/

theorem digitChar_toNat {d : Nat} (h : d < 10) : (digitChar d).toNat = 0x30 + d := by
  rw [digitChar, BitVec.toNat_ofNat, Nat.mod_eq_of_lt (by omega)]

theorem isDigit_digitChar {d : Nat} (h : d < 10) : IsDigit (digitChar d) := by
  have hd := digitChar_toNat h
  constructor <;> omega

theorem isDigit_of_mem_map_digitChar {ds : List Nat} (h : ∀ d ∈ ds, d < 10) : ∀ c ∈ ds.map digitChar, IsDigit c := by
  intro c hc
  obtain ⟨d, hd, rfl⟩ := List.mem_map.mp hc
  exact isDigit_digitChar (h d hd)

theorem digitChar_eq_zero_iff {d : Nat} (h : d < 10) : digitChar d = 0x30#8 ↔ d = 0 := by
  rw [← BitVec.toNat_inj, digitChar_toNat h]
  simp

@[simp] theorem digitsValue_nil : digitsValue [] = 0 := rfl

theorem digitsValue_append_singleton (ds : List Byte) (d : Byte) :
    digitsValue (ds ++ [d]) = 10 * digitsValue ds + (d.toNat - 0x30) := by
  simp [digitsValue]

/-- A digit string is read with its least significant digit last. -/
theorem digitsValue_map_digitChar {ds : List Nat} (h : ∀ d ∈ ds, d < 10) :
    digitsValue (ds.reverse.map digitChar) = Nat.ofDigits 10 ds := by
  induction ds with
  | nil => rfl
  | cons d ds ih =>
    obtain ⟨hd, hds⟩ := List.forall_mem_cons.mp h
    rw [List.reverse_cons, List.map_append, List.map_singleton, digitsValue_append_singleton, ih hds,
      digitChar_toNat hd, Nat.ofDigits_cons]
    omega

/-! ### The whole part: `decimal` -/

/-- Enough fuel makes every digit. -/
theorem decimalDigits_eq {fuel n : Nat} (hpos : 0 < n) (hfuel : n < 10 ^ fuel) (acc : List Byte) :
    decimalDigits fuel n acc = (Nat.digits 10 n).reverse.map digitChar ++ acc := by
  induction fuel generalizing n acc with
  | zero => omega
  | succ fuel ih =>
    rw [decimalDigits]
    split
    next h => simp [Nat.digits_of_lt 10 n hpos.ne' h]
    next h =>
      rw [ih (by omega) (by omega), Nat.digits_def' (by decide) hpos]
      simp

theorem decimal_eq {w : Nat} (hpos : 0 < w) (h : w < 10 ^ 10) :
    decimal w = (Nat.digits 10 w).reverse.map digitChar := by
  rw [decimal, decimalDigits_eq hpos h, List.append_nil]

/-- What R269 says of a whole part. -/
structure IsWholePart (w : Nat) (whole : List Byte) : Prop where
  nonempty : whole ≠ []
  digits : ∀ d ∈ whole, IsDigit d
  noLeadingZero : whole = [0x30#8] ∨ whole.head? ≠ some 0x30#8
  value : digitsValue whole = w

theorem isWholePart_decimal {w : Nat} (h : w < 10 ^ 10) : IsWholePart w (decimal w) := by
  rcases Nat.eq_zero_or_pos w with rfl | hpos
  · exact ⟨by decide, List.forall_mem_singleton.mpr (isDigit_digitChar (by decide)), .inl rfl, rfl⟩
  · have hlt : ∀ d ∈ Nat.digits 10 w, d < 10 := fun d hd => Nat.digits_lt_base (by decide) hd
    have hne : Nat.digits 10 w ≠ [] := Nat.digits_ne_nil_iff_ne_zero.mpr hpos.ne'
    rw [decimal_eq hpos h]
    refine ⟨by simpa using hne, ?_, .inr ?_, ?_⟩
    · exact isDigit_of_mem_map_digitChar (by simpa using hlt)
    · rw [List.head?_map, List.head?_reverse, List.getLast?_eq_some_getLast hne, Option.map_some, ne_eq,
        Option.some_inj, digitChar_eq_zero_iff (hlt _ (List.getLast_mem hne))]
      exact Nat.getLast_digit_ne_zero 10 hpos.ne'
    · rw [digitsValue_map_digitChar hlt, Nat.ofDigits_digits]

theorem length_decimal_le {w k : Nat} (hk : 0 < k) (h : w < 10 ^ k) (hk10 : k ≤ 10) : (decimal w).length ≤ k := by
  rcases Nat.eq_zero_or_pos w with rfl | hpos
  · exact hk
  · rw [decimal_eq hpos (h.trans_le (Nat.pow_le_pow_right (by decide) hk10)), List.length_map, List.length_reverse]
    exact (Nat.digits_length_le_iff (by decide) w).mpr h

/-! ### The fraction: `trimZeros` of `fourDigits` -/

theorem trimZeros_isPrefix (ds : List Byte) : trimZeros ds <+: ds := by
  rw [trimZeros, ← List.reverse_suffix, List.reverse_reverse]
  exact List.dropWhile_suffix _

/-- `trimZeros` is the library's `rdropWhile`. -/
theorem getLast?_trimZeros (ds : List Byte) : (trimZeros ds).getLast? ≠ some 0x30#8 := by
  intro h
  obtain ⟨hne, hlast⟩ := List.mem_getLast?_eq_getLast h
  exact List.rdropWhile_last_not _ ds hne (beq_iff_eq.mpr hlast.symm)

/-- A trimmed zero only scales what the digits before it write. -/
theorem digitsValue_trimZeros (ds : List Byte) :
    digitsValue (trimZeros ds) * 10 ^ (ds.length - (trimZeros ds).length) = digitsValue ds := by
  induction ds using List.reverseRecOn with
  | nil => rfl
  | append_singleton ds d ih =>
    by_cases hd : d = 0x30#8
    · have htrim : trimZeros (ds ++ [d]) = trimZeros ds := List.rdropWhile_concat_pos _ _ _ (by simpa using hd)
      have hle := (trimZeros_isPrefix ds).length_le
      rw [htrim, List.length_append, List.length_singleton, Nat.succ_sub hle, Nat.pow_succ, ← Nat.mul_assoc, ih,
        digitsValue_append_singleton, hd]
      exact Nat.mul_comm _ _
    · have htrim : trimZeros (ds ++ [d]) = ds ++ [d] := List.rdropWhile_concat_neg _ _ _ (by simpa using hd)
      rw [htrim, Nat.sub_self, Nat.pow_zero, Nat.mul_one]

theorem isDigit_fourDigits (n : Nat) : ∀ d ∈ fourDigits n, IsDigit d :=
  isDigit_of_mem_map_digitChar (ds := [n / 1000 % 10, n / 100 % 10, n / 10 % 10, n % 10]) (by simp; omega)

theorem digitsValue_fourDigits {n : Nat} (h : n < 10000) : digitsValue (fourDigits n) = n := by
  have hvalue := digitsValue_map_digitChar (ds := [n % 10, n / 10 % 10, n / 100 % 10, n / 1000 % 10]) (by simp; omega)
  refine hvalue.trans ?_
  simp only [Nat.ofDigits_cons, Nat.ofDigits_nil]
  omega

/-- What R269 says of a fraction of `n` ten-thousandths. -/
structure IsFraction (n : Nat) (frac : List Byte) : Prop where
  digits : ∀ d ∈ frac, IsDigit d
  length : frac.length ≤ 4
  noTrailingZero : frac.getLast? ≠ some 0x30#8
  value : digitsValue frac * 10 ^ (4 - frac.length) = n

theorem isFraction_trimZeros {n : Nat} (h : n < 10000) : IsFraction n (trimZeros (fourDigits n)) where
  digits d hd := isDigit_fourDigits n d ((trimZeros_isPrefix _).subset hd)
  length := (trimZeros_isPrefix _).length_le
  noTrailingZero := getLast?_trimZeros _
  value := (digitsValue_trimZeros (fourDigits n)).trans (digitsValue_fourDigits h)

/-! ### The text (R262, R269) -/

/-- The digits of the magnitude's whole part (R267). -/
def wholeText (raw : Temperature) : List Byte :=
  decimal (raw.toInt.natAbs / 16)

/-- The trimmed digits of the magnitude's fraction: none for a whole number of degrees (R267). -/
def fractionText (raw : Temperature) : List Byte :=
  trimZeros (fourDigits (625 * (raw.toInt.natAbs % 16)))

/-- The whole part has at most four digits: it is at most 2048 (R262). -/
theorem magnitude_whole_lt (raw : Temperature) : raw.toInt.natAbs / 16 < 10 ^ 4 := by
  have hlow := BitVec.le_toInt raw
  have hhigh := BitVec.toInt_lt (x := raw)
  omega

theorem isWholePart_wholeText (raw : Temperature) : IsWholePart (raw.toInt.natAbs / 16) (wholeText raw) :=
  isWholePart_decimal ((magnitude_whole_lt raw).trans (by decide))

theorem wholeText_length_le (raw : Temperature) : (wholeText raw).length ≤ 4 :=
  length_decimal_le (by decide) (magnitude_whole_lt raw) (by decide)

theorem isFraction_fractionText (raw : Temperature) :
    IsFraction (625 * (raw.toInt.natAbs % 16)) (fractionText raw) :=
  isFraction_trimZeros (by omega)

/-- An empty digit string writes 0, and the four digits of 0 are trimmed away. -/
theorem fractionText_eq_nil_iff (raw : Temperature) : fractionText raw = [] ↔ raw.toInt.natAbs % 16 = 0 := by
  constructor
  · intro hnil
    have hvalue := (isFraction_fractionText raw).value
    rw [hnil, digitsValue_nil, Nat.zero_mul] at hvalue
    omega
  · intro hzero
    rw [fractionText, hzero]
    rfl

/-- The text is a sign and two digit strings; the point is there only with a fraction. -/
theorem formatTemperature_eq (raw : Temperature) :
    formatTemperature raw =
      (if raw.toInt < 0 then [0x2D#8] else []) ++ wholeText raw ++
        (if fractionText raw = [] then [] else 0x2E#8 :: fractionText raw) := by
  simp only [fractionText_eq_nil_iff]
  exact textIsMagnitudeForm raw

/-- A whole part begins with a digit, not with a minus sign. -/
theorem IsWholePart.head?_ne_minus {w : Nat} {whole : List Byte} (h : IsWholePart w whole) :
    whole.head? ≠ some 0x2D#8 := by
  intro hhead
  have hlow := (h.digits _ (List.mem_of_mem_head? hhead)).1
  exact absurd hlow (by decide)

/-- "-0" would be a negative value whose whole part is "0" and whose fraction is empty. -/
theorem formatTemperature_ne_minusZero (raw : Temperature) : formatTemperature raw ≠ [0x2D#8, 0x30#8] := by
  have hwhole := isWholePart_wholeText raw
  rw [formatTemperature_eq]
  intro h
  by_cases hneg : raw.toInt < 0
  · rw [if_pos hneg, List.append_assoc, List.singleton_append, List.cons.injEq, List.append_eq_singleton_iff] at h
    obtain ⟨-, ⟨hempty, -⟩ | ⟨hzero, hpoint⟩⟩ := h
    · exact hwhole.nonempty hempty
    · have hvalue : 0 = raw.toInt.natAbs / 16 := (congrArg digitsValue hzero).symm.trans hwhole.value
      have hfraction := (fractionText_eq_nil_iff raw).mp (by simpa using hpoint)
      omega
  · rw [if_neg hneg, List.nil_append] at h
    have hhead := congrArg List.head? h
    rw [List.head?_append_of_ne_nil _ hwhole.nonempty] at hhead
    exact hwhole.head?_ne_minus hhead

/-- A sign, four digits, a point and four digits. -/
theorem formatTemperature_length_le (raw : Temperature) : (formatTemperature raw).length ≤ 10 := by
  have hwhole := wholeText_length_le raw
  have hfraction := (isFraction_fractionText raw).length
  rw [formatTemperature_eq]
  split_ifs <;> simp only [List.length_append, List.length_cons, List.length_nil] <;> omega

/-- Settles O50: `formatTemperature_eq`, with what `IsWholePart` and `IsFraction` say of its two digit strings. -/
theorem textDenotesTemperature : Obligations.TextDenotesTemperature := by
  unfold Obligations.TextDenotesTemperature
  intro raw
  have hwhole := isWholePart_wholeText raw
  have hfraction := isFraction_fractionText raw
  refine ⟨wholeText raw, fractionText raw, formatTemperature_eq raw, hwhole.nonempty, hwhole.digits,
    hwhole.noLeadingZero, hfraction.digits, hfraction.length, hfraction.noTrailingZero,
    formatTemperature_ne_minusZero raw, formatTemperature_length_le raw, ?_⟩
  rw [hwhole.value, hfraction.value]
  omega

end Sys2Proof.Proofs.ScratchpadCodec
end

section
/-! SUPPORT. The statements on refusals and on READ_STATUS (60_exceptions.md): the order of the refusals is that of
`refusalOf`, and no step stops the machine. -/

namespace Sys2Proof.Proofs.Exceptions

open Sys2Proof.Machine Sys2Proof.Safety

/-! ### The order of the refusals (R306, R309) -/

theorem refusalOf_of_decode_error {f : Frame} {why : RefuseReason} (hdecode : decode f = .error why) (s : State) :
    refusalOf f s = [why] := by
  simp only [refusalOf, hdecode]

/-- What R309 leaves for a frame that decodes: a command before INIT, a search step before START_SEARCH, or an
accepted command. -/
theorem refusalOf_cases {f : Frame} {i : Instr} (hdecode : decode f = .ok i) (s : State) :
    (i ≠ .init ∧ s.init = false ∧ refusalOf f s = [.notInitialised]) ∨
    (i = .searchStep ∧ s.init = true ∧ s.searchState = .notStarted ∧ refusalOf f s = [.searchNotStarted]) ∨
    (Accepted i s ∧ refusalOf f s = []) := by
  simp only [refusalOf, hdecode]
  by_cases hbefore : i ≠ .init ∧ s.init = false
  · exact .inl ⟨hbefore.1, hbefore.2, if_pos hbefore⟩
  · have hready : i = .init ∨ s.init = true := by
      rwa [not_and_or, not_ne_iff, Bool.not_eq_false] at hbefore
    rw [if_neg hbefore]
    by_cases hsearch : i = .searchStep ∧ s.searchState = .notStarted
    · obtain ⟨rfl, hstate⟩ := hsearch
      exact .inr (.inl ⟨rfl, hready.resolve_left nofun, hstate, if_pos ⟨rfl, hstate⟩⟩)
    · have haccepted : Accepted i s := hready.imp_right fun hinit => ⟨hinit, fun hi hstate => hsearch ⟨hi, hstate⟩⟩
      exact .inr (.inr ⟨haccepted, if_neg hsearch⟩)

/-- Settles O7: a refusal of the decoder, of a command before INIT or of a search step before START_SEARCH gives the
whole next state; an accepted command ends in `finishCommand`, which keeps the marks. -/
theorem refusalsComeInOrder : Obligations.RefusalsComeInOrder := by
  unfold Obligations.RefusalsComeInOrder
  intro s f rest hport
  cases hdecode : decode f with
  | error why =>
    rw [refusalOf_of_decode_error hdecode]
    exact ⟨_, Encoding.step_of_decode_error hport hdecode, rfl, fun _ => rfl⟩
  | ok i =>
    rw [Scope.step_of_decode hport hdecode]
    rcases refusalOf_cases hdecode s with ⟨hi, hinit, hmark⟩ | ⟨rfl, hinit, hstate, hmark⟩ | ⟨haccepted, hmark⟩ <;>
      rw [hmark]
    · exact ⟨_, CoreState.exec_before_init (s := takeFrame rest s) hi hinit, rfl, fun _ => rfl⟩
    · exact ⟨_, RomSearch.searchStepBeforeStartIsRefused (takeFrame rest s) hinit hstate, rfl, fun _ => rfl⟩
    · obtain ⟨r, u, hexec, -, hmarks, -⟩ := Scope.exec_of_accepted (s := takeFrame rest s) haccepted
      exact ⟨_, hexec, by rw [finishCommand_marks, hmarks, takeFrame_marks, List.append_nil], absurd rfl⟩

/-- Settles O10: without a frame the step is idle, a refused frame leaves a mark, and every instruction answers
(`exec_answers`). -/
theorem everyStepAnswersNextState : Obligations.EveryStepAnswersNextState := by
  unfold Obligations.EveryStepAnswersNextState
  intro s
  cases hport : s.port with
  | nil => exact ⟨s, by simp only [step, hport]⟩
  | cons f rest =>
    cases hdecode : decode f with
    | error why => exact ⟨_, Encoding.step_of_decode_error hport hdecode⟩
    | ok i =>
      rw [Scope.step_of_decode hport hdecode]
      exact Memory.exec_answers i (takeFrame rest s)

/-! ### READ_STATUS (R308) -/

/-- READ_STATUS between `beginCommand` and `finishCommand`; STATUS does not read the trace. -/
theorem exec_readStatus_eq {s : State} (h : s.init = true) :
    exec .readStatus s =
      .next { s with
        trace := []
        observations := s.observations ++ [⟨.readStatus, .status (statusWord s), []⟩] } := by
  rw [exec, execReadStatus, command_next h]
  rfl

/-- Settles O18: the frame is the instruction's own encoding, and `exec_readStatus_eq`. -/
theorem readStatusReturnsStatus : Obligations.ReadStatusReturnsStatus := by
  unfold Obligations.ReadStatusReturnsStatus
  exact ⟨Encoding.decode_encode (i := .readStatus) rfl, fun _ hinit => exec_readStatus_eq hinit,
    fun _ hinit => CoreState.exec_before_init nofun hinit⟩

end Sys2Proof.Proofs.Exceptions
end

section
/-! SUPPORT. The statements on reset and hazards (70_reset_and_hazards.md): the values at power-on and after INIT, the
idle step, and how many slots a command can take. -/

namespace Sys2Proof.Proofs.ResetAndHazards

open Sys2Proof.Machine Sys2Proof.Safety
open Sys2Proof.Proofs.DeviceSession

/-! ### Power-on, INIT and the idle step (R340, R341, R343) -/

/-- Settles O15: `State.reset` holds the values of R340's table, and STATUS packs them. -/
theorem powerOnValues : Obligations.PowerOnValues := by
  unfold Obligations.PowerOnValues
  exact ⟨rfl, rfl, rfl, rfl, rfl, rfl, rfl, rfl, rfl⟩

/-- Settles O9: with no frame on the port, `step` answers the state it was given. -/
theorem stepWithoutFrameIsIdle : Obligations.StepWithoutFrameIsIdle := by
  unfold Obligations.StepWithoutFrameIsIdle
  intro s hport
  simp only [step, hport]

/-- STATUS after INIT: LD is -1 and INIT is set, and every other field is 0 (R31, R343). -/
theorem statusWord_initialiseCore (s : State) : statusWord (initialiseCore s) = 0xFF80#16 := by
  simp only [statusWord, initialiseCore_lastDiscrepancy, initialiseCore_init, initialiseCore_err,
    initialiseCore_presence, initialiseCore_searchState]
  rfl

/-- Settles O16: the frame is the instruction's own encoding, and INIT is `initialiseCore`, then `bindTiming`, between
`beginCommand` and `finishCommand`. -/
theorem initReinitialisesCore : Obligations.InitReinitialisesCore := by
  unfold Obligations.InitReinitialisesCore
  exact ⟨Encoding.decode_encode (i := .init) rfl, fun s => ⟨_, rfl, statusWord_initialiseCore s, rfl⟩⟩

/-! ### The slots of a command (R362) -/

/-- At most so many reset slots and so many bit slots, which are the slots that are no reset slot (R362). -/
structure SlotsWithin (resets bits : Nat) (tr : List BusEvent) : Prop where
  resets_le : resetCount params tr ≤ resets
  slots_le : slotCount tr ≤ resetCount params tr + bits

theorem SlotsWithin.mono {resets bits resets' bits' : Nat} {tr : List BusEvent} (h : SlotsWithin resets bits tr)
    (hresets : resets ≤ resets') (hbits : bits ≤ bits') : SlotsWithin resets' bits' tr :=
  ⟨h.resets_le.trans hresets, h.slots_le.trans (Nat.add_le_add_left hbits _)⟩

/-- A measured trace is within the bounds that its measure is within. -/
theorem slotsWithin_of_measured {tr : List BusEvent} {time slots resets maxResets maxBits : Nat}
    (h : Measured tr time slots resets) (hresets : resets ≤ maxResets) (hslots : slots ≤ resets + maxBits) :
    SlotsWithin maxResets maxBits tr :=
  ⟨h.resets ▸ hresets, h.resets ▸ h.slots ▸ hslots⟩

/-- The observation that an instruction adds is the instruction's own (R70). -/
theorem command_of_observed {i : Instr} {s t : State} {o : Observation} (h : exec i s = .next t)
    (ho : t.observations = s.observations ++ [o]) : o.command = i := by
  rcases (Memory.historyOnlyGrows i s t h).2 with ⟨o', ho', hcommand, -⟩ | ⟨why, -, hnone⟩
  · rwa [List.singleton_inj.1 (List.append_cancel_left (ho.symm.trans ho'))]
  · exact absurd (hnone.symm.trans ho) (by simp)

/-- A search step makes no slot, one reset slot, or a pass of up to 64 positions of three bit slots, after one reset
slot and the eight slots of the search command (R182, R185 to R191). -/
theorem slotsWithin_of_execSearchStep {s t : State} {o : Observation} (hconfig : s.config = params)
    (h : exec .searchStep s = .next t) (ho : t.observations = s.observations ++ [o]) : SlotsWithin 1 200 o.trace := by
  obtain ⟨i, r, tr⟩ := o
  obtain rfl : i = .searchStep := command_of_observed h ho
  rcases execSearchStep_measured hconfig h ho with ⟨-, hm⟩ | ⟨-, ⟨-, hm⟩ | ⟨-, k, hk, hm⟩ | ⟨-, hm⟩⟩ <;>
    exact slotsWithin_of_measured hm (by omega) (by omega)

/-- A command whose body, from an empty trace, makes at most two reset slots and 256 bit slots. -/
theorem slotsWithin_of_command {i : Instr} {answer : State → Result} {after : State → State} {s t : State}
    {o : Observation} {time slots resets : Nat} (h : command i (fun u => (answer u, after u)) s = .next t)
    (ho : t.observations = s.observations ++ [o]) (hbody : Measured (after (beginCommand s)).trace time slots resets)
    (hresets : resets ≤ 2 := by decide) (hslots : slots ≤ resets + 256 := by decide) : SlotsWithin 2 256 o.trace := by
  obtain ⟨-, rfl⟩ := Slots.observed_of_command h ho
  exact slotsWithin_of_measured hbody hresets hslots

/-- SET_RESOLUTION reaches both bounds: its two transactions are 2 reset slots and 153 + 105 - 2 bit slots (R249). -/
theorem slotsWithin_of_exec {i : Instr} {s t : State} {o : Observation} (hconfig : s.config = params)
    (h : exec i s = .next t) (ho : t.observations = s.observations ++ [o]) : SlotsWithin 2 256 o.trace := by
  cases i with
  | init =>
    obtain rfl := Host.Outcome.next.inj h
    obtain rfl := List.singleton_inj.1 (List.append_cancel_left ho)
    exact slotsWithin_of_measured .nil (by decide) (by decide)
  | searchStep => exact (slotsWithin_of_execSearchStep hconfig h ho).mono (by decide) (by decide)
  | readStatus | crc8 _ | formatTemperature _ | startSearch =>
    simp only [exec, execReadStatus, execCrc8, execFormatTemperature, execStartSearch] at h
    exact slotsWithin_of_command h ho .nil
  | write1 =>
    rw [exec, execWrite1] at h
    exact slotsWithin_of_command h ho (writeBit_measured hconfig .nil true)
  | write0 =>
    rw [exec, execWrite0] at h
    exact slotsWithin_of_command h ho (writeBit_measured hconfig .nil false)
  | readBit | pollConversionDone _ =>
    simp only [exec, execReadBit, execPollConversionDone] at h
    exact slotsWithin_of_command h ho (slotRead_measured hconfig .nil)
  | reset =>
    rw [exec, execReset] at h
    exact slotsWithin_of_command h ho (slotReset_measured hconfig .nil)
  | writeByte v8 =>
    rw [exec, execWriteByte] at h
    exact slotsWithin_of_command h ho (writeByte_measured hconfig .nil v8)
  | readByte =>
    rw [exec, execReadByte] at h
    exact slotsWithin_of_command h ho (readByte_measured hconfig .nil)
  | wireSearchRom | wireMatchRom | wireConvertT | wireReadScratchpad | wireWriteScratchpad =>
    simp only [exec, execWireSearchRom, execWireMatchRom, execWireConvertT,
      execWireReadScratchpad, execWireWriteScratchpad] at h
    exact slotsWithin_of_command h ho (sendWire_measured hconfig .nil _)
  | matchRom rom =>
    rw [exec, execMatchRom] at h
    exact slotsWithin_of_command h ho (matchRom_measured hconfig .nil rom)
  | requestConversion rom =>
    rw [exec, execRequestConversion] at h
    exact slotsWithin_of_command h ho (sendWire_measured hconfig (matchRom_measured hconfig .nil rom) .convertT)
  | readScratchpad rom =>
    rw [exec, execReadScratchpad] at h
    exact slotsWithin_of_command h ho (readScratchpadBody_measured hconfig .nil rom)
  | readTemperature rom =>
    rw [exec, execReadTemperature] at h
    exact slotsWithin_of_command h ho (readTemperatureBody_measured hconfig .nil rom)
  | setResolution rom res =>
    rw [exec, execSetResolution] at h
    rcases setResolutionBody_measured (s := beginCommand s) hconfig .nil rom res with ⟨-, hm⟩ | ⟨-, hm⟩ <;>
      exact slotsWithin_of_command h ho hm

/-- Settles O60: the bounds of a search step, and those of every command. -/
theorem slotsPerCommandAreBounded : Obligations.SlotsPerCommandAreBounded := by
  unfold Obligations.SlotsPerCommandAreBounded
  intro i s t o hconfig h ho
  obtain ⟨hresets, hslots⟩ := slotsWithin_of_exec hconfig h ho
  refine ⟨?_, hresets, hslots⟩
  rintro rfl
  obtain ⟨hresets, hslots⟩ := slotsWithin_of_execSearchStep hconfig h ho
  exact ⟨hresets, hslots⟩

end Sys2Proof.Proofs.ResetAndHazards
end
